-- ==== Sys2Proof/Word.lean ====
section
/-! DEFINITION. The word types of the tile-exponent codec block (TEC): the widths of spec/00_scope.md R8 to R11 and
R15, of the ports of spec/10_state.md R21 and of the response registers of R24. -/

namespace Sys2Proof

/-- A tile exponent, 8 bits unsigned (spec/00_scope.md R8). -/
abbrev Exponent := BitVec 8

/-- One byte of a packed position, and one byte of host memory. -/
abbrev Byte := BitVec 8

/-- A packed position: 128 bits, sixteen exponent bytes (spec/00_scope.md R11, spec/20_memory.md R41). -/
abbrev Packed := BitVec 128

/-- One of the two 64-bit halves of a packed position (spec/20_memory.md R42). -/
abbrev HalfLane := BitVec 64

/-- The rotation count port, 32 bits two's complement (spec/00_scope.md R10). -/
abbrev Turns := BitVec 32

/-- The operation code `req_op` (spec/30_encoding.md R60). -/
abbrev OpCode := BitVec 3

/-- A status code, `rsp_status` (spec/60_exceptions.md R161). -/
abbrev StatusCode := BitVec 3

/-- A cell index as `rsp_cell` holds it (spec/10_state.md R24). -/
abbrev CellIndex := BitVec 4

/-- A tile value on a port or in a register, VALUE_WIDTH bits (spec/00_scope.md R9). -/
abbrev TileValue (vw : Nat) := BitVec vw

/-- A grid bus, 16·VALUE_WIDTH bits (spec/10_state.md R23). -/
abbrev GridBus (vw : Nat) := BitVec (16 * vw)

/-- A grid as a requester writes it: sixteen unsigned integers, row-major (spec/30_encoding.md R67 and R69). -/
abbrev Grid := Vector Nat 16

end Sys2Proof
end

