-- ==== Sys2Proof/Config.lean ====
section
/-! DEFINITION. What the build of a TEC instance fixes (spec/00_scope.md section 3), and the free values. -/

namespace Sys2Proof

/-- The two synthesis-time parameters, MAX_EXPONENT (spec/00_scope.md R7) and VALUE_WIDTH (R9). -/
structure Config where
  maxExp : Nat
  valueWidth : Nat
  deriving DecidableEq, Repr

/-- The legal range of the parameters: 1 ≤ MAX_EXPONENT ≤ min(255, VALUE_WIDTH − 1) (spec/00_scope.md R7) and
VALUE_WIDTH ≥ MAX_EXPONENT + 1 (R9). -/
abbrev Config.Legal (c : Config) : Prop :=
  1 ≤ c.maxExp ∧ c.maxExp ≤ min 255 (c.valueWidth - 1) ∧ c.maxExp + 1 ≤ c.valueWidth

/-- The default build: MAX_EXPONENT = 17 and VALUE_WIDTH = 32 (spec/00_scope.md R7 and R9). -/
def Config.standard : Config := { maxExp := 17, valueWidth := 32 }

/-- The number of cells of a grid and of bytes of a packed position (spec/00_scope.md R11). -/
abbrev Config.cells : Nat := 16

/-- FREE VALUE. What a response register holds before the first edge with `rst` = 1 is unspecified
(spec/70_reset_and_hazards.md R181): draw `draw`, register number `reg`, width `w`. Log entry 4. -/
opaque Config.unspecifiedBits (draw reg w : Nat) : BitVec w

end Sys2Proof
end

