-- ==== Sys2Proof/Syntax.lean ====
section
/-! DEFINITION. The requests of TEC: the operation with the operands it names (spec/30_encoding.md R60, R61, R69), the
port-level form a request is decoded from (spec/10_state.md R21), and the pseudo-operations (spec/30_encoding.md R70). -/

namespace Sys2Proof

/-- A packed operand: a value the requester drives, or `rsp`, the previous response's `rsp_packed` which the requester
feeds back (spec/30_encoding.md R69, spec/10_state.md R34). -/
inductive PackedOperand where
  | lit (p : Packed)
  | rsp
  deriving DecidableEq, Repr

/-- One operation with the operands it names, one constructor per row of spec/opcode_table.json
(spec/30_encoding.md R61 and R69). The table has two RESERVED rows: op 101, and ops 110 and 111 together. -/
inductive Instr where
  /-- ENCODE <value>: the value is an unsigned integer (spec/30_encoding.md R65). -/
  | encode (value : Nat)
  /-- DECODE <exp>: every bit of the exponent is significant (R66). -/
  | decode (exp : Exponent)
  /-- PACK { g0 … g15 }: sixteen unsigned tile values (R67). -/
  | pack (grid : Grid)
  /-- UNPACK <packed>. -/
  | unpack (packed : PackedOperand)
  /-- ROTATE <packed>, <turns> (R68). -/
  | rotate (packed : PackedOperand) (turns : Turns)
  /-- The reserved op 101 (R63). -/
  | reserved101
  /-- The reserved ops 110 (`low` false) and 111 (`low` true) (R63). -/
  | reserved11x (low : Bool)
  deriving DecidableEq, Repr

/-- The pseudo-instructions of spec/30_encoding.md R70. -/
inductive Pseudo where
  | rotcw (packed : PackedOperand)
  | rot180 (packed : PackedOperand)
  | rotccw (packed : PackedOperand)
  | rotid (packed : PackedOperand)
  deriving DecidableEq, Repr

/-- The operand-carrying request ports at one edge: `req_op`, `req_value`, `req_exp`, `req_grid`, what drives
`req_packed`, and `req_turns` (spec/10_state.md R21, spec/30_encoding.md R60). -/
structure Request (vw : Nat) where
  op : OpCode
  value : TileValue vw
  exp : Exponent
  grid : GridBus vw
  packed : PackedOperand
  turns : Turns
  deriving DecidableEq, Repr

/-- All input ports but the clock: `rst`, `req_valid` and the request (spec/10_state.md R21). The clock's rising edge
is the step itself. -/
structure Ports (vw : Nat) where
  rst : Bool
  valid : Bool
  req : Request vw
  deriving DecidableEq, Repr

end Sys2Proof
end

