-- ==== Sys2Proof/Machine/Layout.lean ====
section
/-! DEFINITION. Bit placement: the cell index (spec/20_memory.md R40), the bytes and lanes of a packed position (R41,
R42) and the cells of a grid bus (spec/10_state.md R23). -/

namespace Sys2Proof.Machine

/-- Element `i` of width `w` of a bit vector, element 0 at the least significant end:
bits [w·i + w − 1 : w·i]. -/
def element (w : Nat) {n : Nat} (v : BitVec n) (i : Nat) : BitVec w := v.extractLsb' (w * i) w

/-- The `n`-bit vector whose elements 0 … k−1 of width `w` are `f 0 … f (k−1)`, all other bits zero. -/
def assemble (w n : Nat) (f : Nat → BitVec w) : Nat → BitVec n
  | 0 => 0
  | k + 1 => assemble w n f k ||| ((f k).setWidth n <<< (w * k))

/-- `idx(r, c) = 4·r + c` (spec/00_scope.md R13, spec/20_memory.md R40). -/
def idx (r c : Nat) : Nat := 4 * r + c

/-- `byte(p, i) = p[8i+7 : 8i]` (spec/00_scope.md R13, spec/20_memory.md R41). -/
def byte (p : Packed) (i : Nat) : Byte := element 8 p i

/-- The packed position whose byte `i` is `f i` (spec/20_memory.md R41). -/
def packedOfBytes (f : Nat → Byte) : Packed := assemble 8 128 f 16

/-- Lane 0 is `p[63:0]` and lane 1 is `p[127:64]` (spec/20_memory.md R42). -/
def halfLane (p : Packed) (l : Nat) : HalfLane := element 64 p l

/-- `cell(g, i) = g[VALUE_WIDTH·i + VALUE_WIDTH − 1 : VALUE_WIDTH·i]` (spec/00_scope.md R13, spec/10_state.md R23). -/
def cell {vw : Nat} (g : GridBus vw) (i : Nat) : TileValue vw := element vw g i

/-- The grid bus whose cell `i` is `f i` (spec/10_state.md R23). -/
def busOfCells {vw : Nat} (f : Nat → TileValue vw) : GridBus vw := assemble vw (16 * vw) f 16

/-- Cell `i` of a grid written as sixteen integers. -/
def gridAt (g : Grid) (i : Nat) : Nat := g[i]?.getD 0

/-- The sixteen unsigned tile values a grid bus carries (spec/30_encoding.md R67). -/
def gridOfBus {vw : Nat} (b : GridBus vw) : Grid := Vector.ofFn fun i => (cell b i.val).toNat

/-- A grid laid out on the bus (spec/10_state.md R23). -/
def busOfGrid (vw : Nat) (g : Grid) : GridBus vw := busOfCells fun i => BitVec.ofNat vw (gridAt g i)

end Sys2Proof.Machine
end

