-- ==== Sys2Proof/WellFormed.lean ====
section
/-! DEFINITION. Which requests fit the ports: a tile value of 2^VALUE_WIDTH or more cannot be presented
(spec/30_encoding.md R65). Exponents, packed positions and turns fit by their types. -/

namespace Sys2Proof

/-- A tile value fits a VALUE_WIDTH-bit port. -/
def fitsPort (cfg : Config) (v : Nat) : Bool := decide (v < 2 ^ cfg.valueWidth)

/-- An instruction can be presented on the ports of a TEC built with `cfg`. -/
def Instr.wf (cfg : Config) : Instr → Bool
  | .encode value => fitsPort cfg value
  | .decode _ => true
  | .pack grid => grid.toList.all (fitsPort cfg)
  | .unpack _ => true
  | .rotate _ _ => true
  | .reserved101 => true
  | .reserved11x _ => true

end Sys2Proof
end

