-- ==== Sys2Proof/Decode.lean ====
section
/-! DEFINITION. The opcode map (spec/30_encoding.md R61, spec/opcode_table.json), the decoder from the request ports to
an instruction, total by R61, and the encoder from an instruction to the request ports. A TEC request is not packed
into an instruction word: each operand has its own port (R60). -/

namespace Sys2Proof

open Machine (gridOfBus busOfGrid)

/-- Op codes of spec/30_encoding.md R61. -/
def opEncode : OpCode := 0b000#3
def opDecode : OpCode := 0b001#3
def opPack : OpCode := 0b010#3
def opUnpack : OpCode := 0b011#3
def opRotate : OpCode := 0b100#3
def opReserved101 : OpCode := 0b101#3

/-- Ops 110 and 111: the row of spec/opcode_table.json with mask 110 leaves bit 0 open. -/
def opReserved11x (low : Bool) : OpCode := if low then 0b111#3 else 0b110#3

/-- The op code of an instruction (spec/30_encoding.md R61). -/
def Instr.op : Instr → OpCode
  | .encode _ => opEncode
  | .decode _ => opDecode
  | .pack _ => opPack
  | .unpack _ => opUnpack
  | .rotate _ _ => opRotate
  | .reserved101 => opReserved101
  | .reserved11x low => opReserved11x low

/-- The mnemonic of an instruction's row of spec/opcode_table.json. -/
def Instr.mnemonic : Instr → String
  | .encode _ => "ENCODE"
  | .decode _ => "DECODE"
  | .pack _ => "PACK"
  | .unpack _ => "UNPACK"
  | .rotate _ _ => "ROTATE"
  | .reserved101 => "RESERVED"
  | .reserved11x _ => "RESERVED"

/-- One row of spec/opcode_table.json. -/
structure OpRow where
  mnemonic : String
  bits : OpCode
  mask : OpCode
  deriving DecidableEq, Repr

/-- An op value falls under a row. -/
def OpRow.covers (row : OpRow) (op : OpCode) : Bool := op &&& row.mask == row.bits

/-- The rows of spec/opcode_table.json, in its order. -/
def opcodeTable : List OpRow :=
  [⟨"ENCODE", 0b000#3, 0b111#3⟩, ⟨"DECODE", 0b001#3, 0b111#3⟩, ⟨"PACK", 0b010#3, 0b111#3⟩,
   ⟨"UNPACK", 0b011#3, 0b111#3⟩, ⟨"ROTATE", 0b100#3, 0b111#3⟩, ⟨"RESERVED", 0b101#3, 0b111#3⟩,
   ⟨"RESERVED", 0b110#3, 0b110#3⟩]

/-- The instruction a request presents (spec/30_encoding.md R61 and R65 to R68). Ports the operation does not name are
not read (spec/10_state.md R33). -/
def decode {vw : Nat} (r : Request vw) : Instr :=
  if r.op = opEncode then .encode r.value.toNat
  else if r.op = opDecode then .decode r.exp
  else if r.op = opPack then .pack (gridOfBus r.grid)
  else if r.op = opUnpack then .unpack r.packed
  else if r.op = opRotate then .rotate r.packed r.turns
  else if r.op = opReserved101 then .reserved101
  else .reserved11x (r.op.getLsbD 0)

/-- A request with op code `op` and every operand port zero. -/
def Request.ofOp (vw : Nat) (op : OpCode) : Request vw :=
  { op := op, value := 0, exp := 0, grid := BitVec.zero _, packed := .lit 0, turns := 0 }

/-- The request ports that present an instruction (spec/30_encoding.md R60, R61, R69). Ports the operation does not
name are don't-care (spec/10_state.md R21); the encoder drives them to zero. -/
def encode (vw : Nat) (i : Instr) : Request vw :=
  match i with
  | .encode value => { Request.ofOp vw opEncode with value := BitVec.ofNat vw value }
  | .decode exp => { Request.ofOp vw opDecode with exp := exp }
  | .pack grid => { Request.ofOp vw opPack with grid := busOfGrid vw grid }
  | .unpack packed => { Request.ofOp vw opUnpack with packed := packed }
  | .rotate packed turns => { Request.ofOp vw opRotate with packed := packed, turns := turns }
  | .reserved101 => Request.ofOp vw opReserved101
  | .reserved11x low => Request.ofOp vw (opReserved11x low)

/-- The request of a word of spec/opcode_table.json: op = bits [2:0], every operand port zero. -/
def Request.ofTableWord (vw w : Nat) : Request vw := Request.ofOp vw (BitVec.ofNat 3 w)

/-- What the decoder reads from a word of spec/opcode_table.json. The decoder is total (spec/30_encoding.md R61), so it
refuses none; the table's rows have three bits, whatever whole number of bytes `_nbits` they are counted in. -/
def decodeTableWord (_nbits w : Nat) : Option Instr :=
  some (decode (Request.ofTableWord Config.standard.valueWidth w))

/-- Each pseudo-instruction expands to exactly one request (spec/30_encoding.md R70). -/
def Pseudo.expand : Pseudo → Instr
  | .rotcw p => .rotate p 1#32
  | .rot180 p => .rotate p 2#32
  | .rotccw p => .rotate p 3#32
  | .rotid p => .rotate p 0#32

end Sys2Proof
end

