-- ==== Sys2Proof/Machine/State.lean ====
section
/-! DEFINITION. The state of TEC: the response registers (spec/10_state.md R24), the build's parameters (R25), and the
input ports as the requester drives them (R20, R21); the faults and refusals; the state after reset (R32). -/

namespace Sys2Proof.Machine

/-- The response registers, each driving the port of its name (spec/10_state.md R24). `req_ready` is the constant
`reqReady` of Machine/Ops.lean. -/
structure Rsp (vw : Nat) where
  valid : Bool
  op : OpCode
  status : StatusCode
  cell : CellIndex
  exp : Exponent
  value : TileValue vw
  grid : GridBus vw
  packed : Packed
  deriving DecidableEq, Repr

/-- Every response register at its reset value (spec/10_state.md R24 and R32). -/
def Rsp.zero (vw : Nat) : Rsp vw :=
  { valid := false, op := 0, status := 0, cell := 0, exp := 0, value := 0, grid := 0, packed := 0 }

/-- The machine between two rising edges. -/
structure State where
  /-- MAX_EXPONENT and VALUE_WIDTH of this instance; nothing writes them (spec/10_state.md R25 and R27). -/
  cfg : Config
  /-- Has there been an edge with `rst` = 1 since power-up (spec/70_reset_and_hazards.md R181 and R183)? -/
  wasReset : Bool
  /-- The response registers (spec/10_state.md R24). -/
  rsp : Rsp cfg.valueWidth
  /-- What the requester drives on the input ports for the next rising edge (spec/10_state.md R21). -/
  ports : Ports cfg.valueWidth
  /-- What the requester will drive at the edges after that one, in order (spec/10_state.md R20). The model's own
  field for the outside world: log entry 2. -/
  script : List (Ports cfg.valueWidth)
  /-- How many unspecified response register sets have been drawn. The model's own field: log entry 4. -/
  draws : Nat
  deriving DecidableEq, Repr

/-- Why a read of a response register has no value. TEC itself has no trap (spec/60_exceptions.md R160): these are the
model's stops where the spec says that a read is to be treated as a fault. -/
inductive Fault where
  /-- A response register was read before the first edge with `rst` = 1 (spec/70_reset_and_hazards.md R181). Raised by
  the requester's reads of Machine/Ops.lean and by a `rsp` operand. Safe: the machine has no value the spec states. -/
  | readBeforeReset
  /-- A data response register was read while `rsp_valid` = 0 (spec/10_state.md R31). Raised by the requester's reads of
  Machine/Ops.lean and by a `rsp` operand. Safe: the hardware holds a value there that is no result. -/
  | readWithoutResponse
  /-- `rsp_status` held a code that TEC never produces (spec/93_implementation_defined.md I7). Raised by `readStatus`.
  Safe: no run from reset gets there. -/
  | statusNeverProduced
  deriving DecidableEq, Repr

/-- Why an instruction is not run. -/
inductive Refusal where
  /-- Raised by an arm of `exec` that has no meaning yet. Safe. No arm is so. -/
  | notModelled (mnemonic : String)
  /-- Raised by the operand reads of Machine/Operands.lean for a tile value of 2^VALUE_WIDTH or more, which cannot be
  presented on a port (spec/30_encoding.md R65, spec/93_implementation_defined.md I11). Safe: no hardware request is
  refused, since no decoded request holds such a value. -/
  | operandWiderThanPort
  deriving DecidableEq, Repr

/-- What a step ends in. -/
abbrev Outcome := Host.Outcome State Fault Refusal

/-- The requester presents nothing: `rst` = 0, `req_valid` = 0, every operand port zero. -/
def idlePorts (vw : Nat) : Ports vw := { rst := false, valid := false, req := Request.ofOp vw 0 }

/-- A TEC built with `cfg`, right after an edge with `rst` = 1 (spec/10_state.md R32, spec/70_reset_and_hazards.md
R180), with a requester that presents nothing (log entry 2). -/
def State.resetOf (cfg : Config) : State :=
  { cfg := cfg, wasReset := true, rsp := Rsp.zero cfg.valueWidth, ports := idlePorts cfg.valueWidth,
    script := [], draws := 0 }

/-- The default build right after reset (spec/00_scope.md R7 and R9, spec/10_state.md R32). -/
def State.reset : State := State.resetOf Config.standard

end Sys2Proof.Machine
end

