-- ==== Sys2Proof/Machine/Flags.lean ====
section
/-! DEFINITION. The status codes of `rsp_status` (spec/60_exceptions.md R161), the only flag-like state of TEC together
with `rsp_cell` (spec/10_state.md R28), and the validity checks they report (spec/40_tile_codec.md R100 and R101). -/

namespace Sys2Proof.Machine

/-- The named status kinds of spec/60_exceptions.md R161. -/
inductive Status where
  | ok
  | invalidTile
  | invalidExponent
  /-- Reserved for the host's text parser; TEC never produces it. -/
  | malformedInput
  | illegalOp
  deriving DecidableEq, Repr

/-- The code of a status (spec/60_exceptions.md R161). -/
def Status.code : Status → StatusCode
  | .ok => 0#3
  | .invalidTile => 1#3
  | .invalidExponent => 2#3
  | .malformedInput => 3#3
  | .illegalOp => 4#3

/-- The status TEC reports by a code; none for the codes it never produces, 3 and 5 to 7 (spec/60_exceptions.md R161,
spec/93_implementation_defined.md I7). -/
def producedStatus (c : StatusCode) : Option Status :=
  if c = 0#3 then some .ok
  else if c = 1#3 then some .invalidTile
  else if c = 2#3 then some .invalidExponent
  else if c = 4#3 then some .illegalOp
  else none

/-- `is_pow2(v)`, computed in VALUE_WIDTH bits (spec/00_scope.md R13). -/
def isPow2 {vw : Nat} (v : TileValue vw) : Bool := v != 0 && (v &&& (v - 1)) == 0

/-- `log2(v)`, the index of the single set bit of v; the spec defines it only where `isPow2 v` holds
(spec/00_scope.md R13), and it is used nowhere else. -/
def log2 {vw : Nat} (v : TileValue vw) : Nat := v.toNat.log2

/-- `valid_value(v)` (spec/40_tile_codec.md R100). -/
def validValue (cfg : Config) {vw : Nat} (v : TileValue vw) : Bool :=
  v == 0 || (isPow2 v && decide (1 ≤ log2 v) && decide (log2 v ≤ cfg.maxExp))

/-- `valid_exp(e)` (spec/40_tile_codec.md R101). -/
def validExp (cfg : Config) (e : Exponent) : Bool := decide (e.toNat ≤ cfg.maxExp)

/-- The lowest of the cell indices 0 … 15 that fails a check (spec/41_position_codec.md R121 and R125). -/
def firstFailing (check : Nat → Bool) : Option Nat := (List.range 16).find? fun i => !check i

end Sys2Proof.Machine
end

