-- ==== Sys2Proof/Machine/Ops.lean ====
section
/-! DEFINITION. The shared operations on the state: the result record and `raise` (spec/00_scope.md R14 and R15), what a
rising edge does to the response registers (spec/10_state.md R30), and the requester's reads of them (R31,
spec/70_reset_and_hazards.md R181). Reporting an error is the one operation `raise`: TEC takes no exception and has no
return from one (spec/60_exceptions.md R160 and R165). -/

namespace Sys2Proof.Machine

/-- The result record `out` (spec/00_scope.md R15). -/
structure Out (vw : Nat) where
  status : StatusCode
  cell : CellIndex
  exp : Exponent
  value : TileValue vw
  grid : GridBus vw
  packed : Packed
  deriving DecidableEq, Repr

/-- Before an operation runs, every field of `out` is zero (spec/00_scope.md R15). -/
def Out.zero (vw : Nat) : Out vw := { status := 0, cell := 0, exp := 0, value := 0, grid := 0, packed := 0 }

/-- `raise <Status>(cell)`: status and cell set, every data field zero (spec/00_scope.md R14, spec/60_exceptions.md
R164). -/
def raise {vw : Nat} (status : Status) (cell : CellIndex) : Out vw :=
  { Out.zero vw with status := status.code, cell := cell }

/-- An accepted request: `rsp_valid` is 1, `rsp_op` records the op code and every other response register takes its
field of `out` (spec/10_state.md R30). -/
def State.accept (s : State) (op : OpCode) (out : Out s.cfg.valueWidth) : State :=
  { s with rsp := { valid := true, op := op, status := out.status, cell := out.cell, exp := out.exp,
                    value := out.value, grid := out.grid, packed := out.packed } }

/-- An edge with `rst` = 1 (spec/10_state.md R30, spec/70_reset_and_hazards.md R180). -/
def State.resetEdge (s : State) : State := { s with rsp := Rsp.zero s.cfg.valueWidth, wasReset := true }

/-- An edge with `rst` = 0 and `req_valid` = 0: `rsp_valid` falls and all other response registers keep their values
(spec/10_state.md R30). -/
def State.idleEdge (s : State) : State := { s with rsp := { s.rsp with valid := false } }

/-- A response register set with every bit unspecified (spec/70_reset_and_hazards.md R181): draw number `draw`. -/
def Rsp.unspecified (vw draw : Nat) : Rsp vw :=
  { valid := Config.unspecifiedBits draw 0 1 == 1#1
    op := Config.unspecifiedBits draw 1 3
    status := Config.unspecifiedBits draw 2 3
    cell := Config.unspecifiedBits draw 3 4
    exp := Config.unspecifiedBits draw 4 8
    value := Config.unspecifiedBits draw 5 vw
    grid := Config.unspecifiedBits draw 6 (16 * vw)
    packed := Config.unspecifiedBits draw 7 128 }

/-- An edge with `rst` = 0 before the first edge with `rst` = 1: whatever is presented, every response register,
`rsp_valid` included, is unspecified after it (spec/70_reset_and_hazards.md R181 and R183). -/
def State.powerUpEdge (s : State) : State :=
  { s with rsp := Rsp.unspecified s.cfg.valueWidth s.draws, draws := s.draws + 1 }

/-- A TEC built with `cfg` at power-up, before any edge (spec/70_reset_and_hazards.md R181). -/
def State.powerUp (cfg : Config) : State :=
  { State.resetOf cfg with wasReset := false, rsp := Rsp.unspecified cfg.valueWidth 0, draws := 1 }

/-- After an edge the requester drives the next entry of its script; with none left it goes on driving what it drove
(log entry 2). TEC itself never writes its request ports (spec/10_state.md R34). -/
def State.driveNext (s : State) : State :=
  { s with ports := s.script.headD s.ports, script := s.script.tail }

/-- The instruction presented on the ports (spec/30_encoding.md R60 to R62). -/
def State.presented (s : State) : Instr := decode s.ports.req

/-- The constant output `req_ready` (spec/10_state.md R22 and R24). -/
def State.reqReady (_s : State) : Bool := true

/-- The requester's read of `rsp_valid`: no value before reset (spec/70_reset_and_hazards.md R181). -/
def State.readValid (s : State) : Except Fault Bool :=
  if s.wasReset then .ok s.rsp.valid else .error .readBeforeReset

/-- A read of a data response register: no value before reset (spec/70_reset_and_hazards.md R181) and none while
`rsp_valid` = 0 (spec/10_state.md R31). -/
def State.readData (s : State) {α : Type} (register : α) : Except Fault α :=
  if s.wasReset then
    if s.rsp.valid then .ok register else .error .readWithoutResponse
  else .error .readBeforeReset

/-- The requester's reads of the data response registers. -/
def State.readOp (s : State) : Except Fault OpCode := s.readData s.rsp.op
def State.readCell (s : State) : Except Fault CellIndex := s.readData s.rsp.cell
def State.readExp (s : State) : Except Fault Exponent := s.readData s.rsp.exp
def State.readValue (s : State) : Except Fault (TileValue s.cfg.valueWidth) := s.readData s.rsp.value
def State.readGrid (s : State) : Except Fault (GridBus s.cfg.valueWidth) := s.readData s.rsp.grid
def State.readPacked (s : State) : Except Fault Packed := s.readData s.rsp.packed

/-- The requester's read of `rsp_status` by name; a code TEC never produces is a fault
(spec/93_implementation_defined.md I7). -/
def State.readStatus (s : State) : Except Fault Status :=
  match s.readData s.rsp.status with
  | .error f => .error f
  | .ok code =>
    match producedStatus code with
    | some status => .ok status
    | none => .error .statusNeverProduced

end Sys2Proof.Machine
end

