-- ==== Sys2Proof/Machine/Operands.lean ====
section
/-! DEFINITION. The operand forms (spec/30_encoding.md R65 to R69): a tile value or a grid on its port, a packed
position driven by the requester or fed back from `rsp_packed`, and the rotation count. -/

namespace Sys2Proof.Machine

/-- The value operand on `req_value`, VALUE_WIDTH bits; a wider integer cannot be presented and is never truncated
(spec/30_encoding.md R65, spec/60_exceptions.md R168). -/
def valueOperand (cfg : Config) (v : Nat) : Except Refusal (TileValue cfg.valueWidth) :=
  if fitsPort cfg v then .ok (BitVec.ofNat cfg.valueWidth v) else .error .operandWiderThanPort

/-- The grid operand on `req_grid`, each cell read whole (spec/30_encoding.md R67). -/
def gridOperand (cfg : Config) (g : Grid) : Except Refusal (GridBus cfg.valueWidth) :=
  if g.toList.all (fitsPort cfg) then .ok (busOfGrid cfg.valueWidth g) else .error .operandWiderThanPort

/-- The packed operand: the value driven, or the value `rsp_packed` holds before the edge (spec/10_state.md R34,
spec/30_encoding.md R69). -/
def packedOperand (s : State) : PackedOperand → Except Fault Packed
  | .lit p => .ok p
  | .rsp => s.readPacked

/-- `qt = req_turns[1:0]` (spec/42_rotation.md R141, spec/30_encoding.md R68). -/
def quarterTurns (turns : Turns) : BitVec 2 := turns.extractLsb' 0 2

/-- Go on with an operand, or end in the refusal that its read gave. -/
def orRefuse {α : Type} (operand : Except Refusal α) (go : α → Outcome) : Outcome :=
  match operand with
  | .ok a => go a
  | .error r => .refused r

/-- Go on with an operand, or end in the fault that its read gave. -/
def orFault {α : Type} (operand : Except Fault α) (go : α → Outcome) : Outcome :=
  match operand with
  | .ok a => go a
  | .error f => .fault f

end Sys2Proof.Machine
end

