-- ==== Sys2Proof/Machine/TileCodec.lean ====
section
/-! DEFINITION. The tile codec unit: ENCODE and DECODE (spec/40_tile_codec.md). -/

namespace Sys2Proof.Machine

/-- The exponent of a valid tile value: 0 for 0, else `zext_8(log2(v))` (spec/40_tile_codec.md R102). -/
def exponentOf {vw : Nat} (v : TileValue vw) : Exponent := if v = 0 then 0 else BitVec.ofNat 8 (log2 v)

/-- The tile value of a valid exponent: 0 for 0, else `1 << e` in VALUE_WIDTH bits (spec/40_tile_codec.md R104). -/
def valueOf (vw : Nat) (e : Exponent) : TileValue vw := if e = 0 then 0 else 1#vw <<< e.toNat

/-- The result of ENCODE (spec/40_tile_codec.md R102). -/
def encodeOut (cfg : Config) (v : TileValue cfg.valueWidth) : Out cfg.valueWidth :=
  if validValue cfg v then { Out.zero cfg.valueWidth with exp := exponentOf v } else raise .invalidTile 0

/-- The result of DECODE (spec/40_tile_codec.md R104). -/
def decodeOut (cfg : Config) (e : Exponent) : Out cfg.valueWidth :=
  if validExp cfg e then { Out.zero cfg.valueWidth with value := valueOf cfg.valueWidth e }
  else raise .invalidExponent 0

/-- ENCODE (spec/40_tile_codec.md R102). -/
def execEncode (value : Nat) (s : State) : Outcome :=
  orRefuse (valueOperand s.cfg value) fun v => .next (s.accept opEncode (encodeOut s.cfg v))

/-- DECODE (spec/40_tile_codec.md R104). -/
def execDecode (exp : Exponent) (s : State) : Outcome := .next (s.accept opDecode (decodeOut s.cfg exp))

end Sys2Proof.Machine
end

