-- ==== Sys2Proof/Machine/PositionCodec.lean ====
section
/-! DEFINITION. The position codec unit: PACK and UNPACK (spec/41_position_codec.md). -/

namespace Sys2Proof.Machine

/-- The result of PACK (spec/41_position_codec.md R120 and R121). -/
def packOut (cfg : Config) (g : GridBus cfg.valueWidth) : Out cfg.valueWidth :=
  match firstFailing fun i => validValue cfg (cell g i) with
  | some i => raise .invalidTile (BitVec.ofNat 4 i)
  | none => { Out.zero cfg.valueWidth with packed := packedOfBytes fun i => exponentOf (cell g i) }

/-- The result of UNPACK (spec/41_position_codec.md R124 and R125). -/
def unpackOut (cfg : Config) (p : Packed) : Out cfg.valueWidth :=
  match firstFailing fun i => validExp cfg (byte p i) with
  | some i => raise .invalidExponent (BitVec.ofNat 4 i)
  | none => { Out.zero cfg.valueWidth with grid := busOfCells fun i => valueOf cfg.valueWidth (byte p i) }

/-- PACK (spec/41_position_codec.md R120). -/
def execPack (grid : Grid) (s : State) : Outcome :=
  orRefuse (gridOperand s.cfg grid) fun g => .next (s.accept opPack (packOut s.cfg g))

/-- UNPACK (spec/41_position_codec.md R124). -/
def execUnpack (packed : PackedOperand) (s : State) : Outcome :=
  orFault (packedOperand s packed) fun p => .next (s.accept opUnpack (unpackOut s.cfg p))

end Sys2Proof.Machine
end

