-- ==== Sys2Proof/Machine/ReservedOps.lean ====
section
/-! DEFINITION. The reserved op codes 101, 110 and 111: accepted like any other request, answered with ILLEGAL_OP
(spec/30_encoding.md R62 and R63). Log entry 1 says why they are not refused. -/

namespace Sys2Proof.Machine

/-- Op 101 (spec/30_encoding.md R63). -/
def execReserved101 (s : State) : Outcome := .next (s.accept opReserved101 (raise .illegalOp 0))

/-- Ops 110 and 111 (spec/30_encoding.md R63). -/
def execReserved11x (low : Bool) (s : State) : Outcome :=
  .next (s.accept (opReserved11x low) (raise .illegalOp 0))

end Sys2Proof.Machine
end

