-- ==== Sys2Proof/Machine/Rotation.lean ====
section
/-! DEFINITION. The rotation engine: the four constant tables and ROTATE (spec/42_rotation.md). -/

namespace Sys2Proof.Machine

/-- T0 (spec/42_rotation.md R142). -/
def rotTable0 : Vector (Fin 16) 16 := #v[0, 1, 2, 3, 4, 5, 6, 7, 8, 9, 10, 11, 12, 13, 14, 15]
/-- T1, one quarter turn clockwise (spec/42_rotation.md R142). -/
def rotTable1 : Vector (Fin 16) 16 := #v[12, 8, 4, 0, 13, 9, 5, 1, 14, 10, 6, 2, 15, 11, 7, 3]
/-- T2 (spec/42_rotation.md R142). -/
def rotTable2 : Vector (Fin 16) 16 := #v[15, 14, 13, 12, 11, 10, 9, 8, 7, 6, 5, 4, 3, 2, 1, 0]
/-- T3 (spec/42_rotation.md R142). -/
def rotTable3 : Vector (Fin 16) 16 := #v[3, 7, 11, 15, 2, 6, 10, 14, 1, 5, 9, 13, 0, 4, 8, 12]

/-- The table selected by qt: exactly one per request (spec/42_rotation.md R143 and R145). -/
def rotTable (qt : BitVec 2) : Vector (Fin 16) 16 :=
  if qt = 0#2 then rotTable0 else if qt = 1#2 then rotTable1 else if qt = 2#2 then rotTable2 else rotTable3

/-- `permuteBytes` read by gather: output byte i is input byte `table[i]` (spec/42_rotation.md R142 and R143). -/
def permuteBytes (table : Vector (Fin 16) 16) (p : Packed) : Packed :=
  packedOfBytes fun i => byte p ((table[i]?.getD 0).val)

/-- A table as a 16-byte control vector, entry 0 in the least significant byte (spec/42_rotation.md R142). -/
def controlVector (table : Vector (Fin 16) 16) : Packed :=
  packedOfBytes fun i => BitVec.ofNat 8 ((table[i]?.getD 0).val)

/-- The result of ROTATE (spec/42_rotation.md R143 and R144). -/
def rotateOut (vw : Nat) (p : Packed) (turns : Turns) : Out vw :=
  { Out.zero vw with packed := permuteBytes (rotTable (quarterTurns turns)) p }

/-- ROTATE (spec/42_rotation.md R143). -/
def execRotate (packed : PackedOperand) (turns : Turns) (s : State) : Outcome :=
  orFault (packedOperand s packed) fun p => .next (s.accept opRotate (rotateOut s.cfg.valueWidth p turns))

end Sys2Proof.Machine
end

