-- ==== Sys2Proof/Machine/Dispatch.lean ====
section
/-! DEFINITION. The dispatch of an accepted request to its meaning (spec/30_encoding.md R62), one arm per constructor. -/

namespace Sys2Proof.Machine

def exec (i : Instr) (s : State) : Host.Outcome State Fault Refusal :=
  match i with
  | .encode value => Sys2Proof.Machine.execEncode value s
  | .decode exp => Sys2Proof.Machine.execDecode exp s
  | .pack grid => Sys2Proof.Machine.execPack grid s
  | .unpack packed => Sys2Proof.Machine.execUnpack packed s
  | .rotate packed turns => Sys2Proof.Machine.execRotate packed turns s
  | .reserved101 => Sys2Proof.Machine.execReserved101 s
  | .reserved11x low => Sys2Proof.Machine.execReserved11x low s

end Sys2Proof.Machine
end

