-- ==== Sys2Proof/Machine/Edge.lean ====
section
/-! DEFINITION. One rising edge of `clk` (spec/10_state.md R30): reset first, then an accepted request, else idle; and
the requester's next drive after it. -/

namespace Sys2Proof.Machine

/-- After TEC's part of an edge the requester drives its ports for the next one. -/
def thenDrive (o : Outcome) : Outcome :=
  match o with
  | .next t => .next t.driveNext
  | .fault f => .fault f
  | .refused r => .refused r

/-- A rising edge (spec/10_state.md R30): `rst` has priority over `req_valid` (spec/70_reset_and_hazards.md R180), and
the rules hold from the first edge with `rst` = 1 on (R181 and R183). -/
def clockEdge (s : State) : Outcome :=
  if s.ports.rst then thenDrive (.next s.resetEdge)
  else if s.wasReset then
    if s.ports.valid then thenDrive (exec s.presented s) else thenDrive (.next s.idleEdge)
  else thenDrive (.next s.powerUpEdge)

/-- The ports that present a word of spec/opcode_table.json at an edge with `rst` = 0 and `req_valid` = 1. -/
def portsOfTableWord (vw w : Nat) : Ports vw := { rst := false, valid := true, req := Request.ofTableWord vw w }

end Sys2Proof.Machine
end

