-- ==== Sys2Proof/Machine/Step.lean ====
section
/-! DEFINITION. The step of the machine is one rising edge of `clk` (spec/10_state.md R30); and how one word of
spec/opcode_table.json is presented to it. -/

namespace Sys2Proof.Machine

/-- One step: one rising edge. -/
def step (s : State) : Host.Outcome State Fault Refusal := clockEdge s

/-- TEC fetches nothing (spec/20_memory.md R54): the next request is what stands on the ports. The word is presented at
the next edge of a block that has been reset (spec/70_reset_and_hazards.md R183; log entry 3). -/
def State.withFetchWord (s : State) (_nbits w : Nat) : State :=
  { s with ports := portsOfTableWord s.cfg.valueWidth w, wasReset := true }

end Sys2Proof.Machine
end

