-- ==== Sys2Proof/Machine/Requester.lean ====
section
/-! DEFINITION. The requester's duties at the ports (spec/60_exceptions.md R167 and R168, spec/42_rotation.md R141): an
integer that does not fit a port is reported by the requester itself and never truncated, masked or clamped onto it;
a rotation count is truncated to 32 bits. -/

namespace Sys2Proof.Machine

/-- A tile value for `req_value`, or the InvalidTile the requester reports itself (spec/60_exceptions.md R167). -/
def presentValue (cfg : Config) (v : Nat) : Except Status (TileValue cfg.valueWidth) :=
  if fitsPort cfg v then .ok (BitVec.ofNat cfg.valueWidth v) else .error .invalidTile

/-- A grid for `req_grid`, or the InvalidTile the requester reports itself (spec/60_exceptions.md R167 and R168). -/
def presentGrid (cfg : Config) (g : Grid) : Except Status (GridBus cfg.valueWidth) :=
  if g.toList.all (fitsPort cfg) then .ok (busOfGrid cfg.valueWidth g) else .error .invalidTile

/-- An exponent for `req_exp`, or the InvalidExponent the requester reports itself (spec/60_exceptions.md R168,
spec/92_eei_decisions.md D24). -/
def presentExp (e : Nat) : Except Status Exponent :=
  if e < 256 then .ok (BitVec.ofNat 8 e) else .error .invalidExponent

/-- Sixteen exponents for the bytes of `req_packed` (spec/60_exceptions.md R168). -/
def presentBytes (es : Grid) : Except Status Packed :=
  if es.toList.all fun e => decide (e < 256) then .ok (packedOfBytes fun i => BitVec.ofNat 8 (gridAt es i))
  else .error .invalidExponent

/-- A rotation count of any size, truncated to its low 32 bits (spec/42_rotation.md R141, spec/92_eei_decisions.md
D23). -/
def presentTurns (n : Int) : Turns := BitVec.ofInt 32 n

end Sys2Proof.Machine
end

