-- ==== Sys2Proof/Machine/WireFormat.lean ====
section
/-! DEFINITION. The host-memory form of a packed position (spec/20_memory.md R45 to R47) over the host's byte-addressed
memory (spec/00_scope.md R14). TEC has no memory and issues no address (R49), so this memory is the requester's and no
field of State. -/

namespace Sys2Proof.Machine

/-- The host's memory: the bytes written so far, addresses strictly rising. An address not listed has no value. -/
abbrev Memory := List Host.Cell

/-- The canonical form: addresses strictly rising. -/
def Memory.wf : Memory → Bool
  | [] => true
  | [_] => true
  | a :: b :: m => decide (a.1 < b.1) && Memory.wf (b :: m)

/-- The byte at an address; none where nothing has written it. -/
def Memory.readByte : Memory → Nat → Option Byte
  | [], _ => none
  | (x, b) :: m, a => if a = x then some b else Memory.readByte m a

/-- Write one byte. -/
def Memory.writeByte : Memory → Nat → Byte → Memory
  | [], a, b => [(a, b)]
  | (x, c) :: m, a, b =>
    if a < x then (a, b) :: (x, c) :: m
    else if a = x then (a, b) :: m
    else (x, c) :: Memory.writeByte m a b

/-- `MemWrite(addr, n, v)`: n bytes, little-endian (spec/00_scope.md R14). -/
def memWrite (m : Memory) (addr : Nat) : (n : Nat) → {w : Nat} → BitVec w → Memory
  | 0, _, _ => m
  | n + 1, _, v => (memWrite m addr n v).writeByte (addr + n) (element 8 v n)

/-- All of the n bytes at `addr` have been written. -/
def allWritten (m : Memory) (addr n : Nat) : Bool := (List.range n).all fun i => (m.readByte (addr + i)).isSome

/-- `MemRead(addr, n)`: n bytes, little-endian (spec/00_scope.md R14); no value where a byte has none. -/
def memRead (m : Memory) (addr n : Nat) : Option (BitVec (8 * n)) :=
  if allWritten m addr n then some (assemble 8 (8 * n) (fun i => (m.readByte (addr + i)).getD 0) n) else none

/-- A big-endian read of n bytes: the byte at the lowest address is the most significant
(spec/20_memory.md R47, spec/93_implementation_defined.md G6). -/
def memReadBig (m : Memory) (addr n : Nat) : Option (BitVec (8 * n)) :=
  if allWritten m addr n then some (assemble 8 (8 * n) (fun i => (m.readByte (addr + (n - 1 - i))).getD 0) n)
  else none

/-- Byte i of the packed position is stored at address base + i; any address will do
(spec/20_memory.md R45 and R46). -/
def storePacked (m : Memory) (base : Nat) (p : Packed) : Memory := memWrite m base 16 p

/-- The same store as two 64-bit little-endian words (spec/20_memory.md R45). -/
def storeLanes (m : Memory) (base : Nat) (p : Packed) : Memory :=
  memWrite (memWrite m base 8 (halfLane p 0)) (base + 8) 8 (halfLane p 1)

/-- Loading reverses the store (spec/20_memory.md R45). -/
def loadPacked (m : Memory) (base : Nat) : Option Packed := memRead m base 16

/-- The byte swap a big-endian host applies to each lane (spec/20_memory.md R47). -/
def swapLane (l : HalfLane) : HalfLane := assemble 8 64 (fun i => element 8 l (7 - i)) 8

end Sys2Proof.Machine
end

