-- ==== Sys2Proof/Safety.lean ====
section
/-! DEFINITION. What claims are stated in: a safe run, and the invariant of the response registers. -/

namespace Sys2Proof.Machine

/-- A run of `k` edges ends in a next state: no read without a value, no operand wider than its port. -/
def SafeRun (k : Nat) (s : State) : Prop := ∃ t : State, Host.Core.run Sys2Proof.core k s = .next t

/-- What a response register set may hold, whether `rsp_valid` is 1 or it holds the previous response: the table of
spec/60_exceptions.md R162 with the zero fill of R164, the reserved codes of R161 and the bounds of
spec/20_memory.md R43. -/
structure RspInv (cfg : Config) (r : Rsp cfg.valueWidth) : Prop where
  /-- Only the codes 0, 1, 2 and 4 are produced (R161). -/
  produced : r.status = 0 ∨ r.status = 1 ∨ r.status = 2 ∨ r.status = 4
  /-- INVALID_TILE is reported by ENCODE and PACK only (R162). -/
  tile_ops : r.status = 1 → r.op = opEncode ∨ r.op = opPack
  /-- INVALID_EXPONENT is reported by DECODE and UNPACK only (R162). -/
  exponent_ops : r.status = 2 → r.op = opDecode ∨ r.op = opUnpack
  /-- ILLEGAL_OP is reported by exactly the reserved ops (R162, R163). -/
  illegal_ops : r.status = 4 ↔ 5 ≤ r.op.toNat
  /-- A cell index other than 0 comes with a failed PACK or UNPACK only (R162). -/
  cell_ops : r.cell ≠ 0 → r.status ≠ 0 ∧ (r.op = opPack ∨ r.op = opUnpack)
  /-- A data field other than 0 comes with a success of the operation that names it (R164). -/
  exp_ops : r.exp ≠ 0 → r.status = 0 ∧ r.op = opEncode
  value_ops : r.value ≠ 0 → r.status = 0 ∧ r.op = opDecode
  grid_ops : r.grid ≠ 0 → r.status = 0 ∧ r.op = opUnpack
  packed_ops : r.packed ≠ 0 → r.status = 0 ∧ (r.op = opPack ∨ r.op = opRotate)
  /-- An exponent answered is valid (spec/40_tile_codec.md R101 and R102). -/
  exp_valid : r.exp.toNat ≤ cfg.maxExp
  /-- A packed position that PACK produced holds valid exponents only (spec/20_memory.md R43). -/
  packed_valid : r.op = opPack → ∀ i, i < 16 → (byte r.packed i).toNat ≤ cfg.maxExp

/-- The invariant of the machine: once reset, the response registers hold what some response may hold. Before reset
they are unspecified (spec/70_reset_and_hazards.md R181). -/
def State.Inv (s : State) : Prop := s.wasReset = true → RspInv s.cfg s.rsp

end Sys2Proof.Machine
end

