-- ==== Sys2Proof/Certificates/Slice0/Obligations.lean ====
section
/-! DEFINITION. The statements for the provers. Each docstring names the rule of spec/ it formalises. Where a statement
speaks of a byte of a packed position, a cell of a grid bus or a valid tile value it says so by the spec's own
formula, not by the model's function. -/

namespace Sys2Proof.Certificates

open Sys2Proof.Machine

/-- `p[8i+7 : 8i]` (spec/20_memory.md R41). -/
def byteAt (p : Packed) (i : Nat) : Byte := p.extractLsb' (8 * i) 8

/-- `g[VALUE_WIDTH·i + VALUE_WIDTH − 1 : VALUE_WIDTH·i]` (spec/10_state.md R23). -/
def cellAt {vw : Nat} (g : GridBus vw) (i : Nat) : TileValue vw := g.extractLsb' (vw * i) vw

/-- A valid tile value (spec/40_tile_codec.md R100). -/
def ValidTile (cfg : Config) (v : Nat) : Prop := v = 0 ∨ ∃ k, 1 ≤ k ∧ k ≤ cfg.maxExp ∧ v = 2 ^ k

/-- Every cell of the grid fits its port (spec/30_encoding.md R65 and R67). -/
def GridFits (cfg : Config) (g : Grid) : Prop := ∀ i : Fin 16, g[i] < 2 ^ cfg.valueWidth

/-- Every cell of the grid is a valid tile value. -/
def GridValid (cfg : Config) (g : Grid) : Prop := ∀ i : Fin 16, ValidTile cfg g[i]

/-- The state with a response on the ports and everything but the response registers as in `s`. -/
def responded (s : State) (op : OpCode) (status : StatusCode) (cell : CellIndex) (exp : Exponent)
    (value : TileValue s.cfg.valueWidth) (grid : GridBus s.cfg.valueWidth) (packed : Packed) : State :=
  { s with rsp := { valid := true, op := op, status := status, cell := cell, exp := exp, value := value,
                    grid := grid, packed := packed } }

/-- ROTATE of `p` by `n` answers OK with the packed position `q`. -/
def Rotates (s : State) (p : Packed) (n : Turns) (q : Packed) : Prop :=
  exec (.rotate (.lit p) n) s = .next (responded s 0b100#3 0 0 0 0 0 q)

/-- The source index of output byte i = 4r + c under q quarter turns (spec/42_rotation.md R142). -/
def rotSource (q i : Nat) : Nat :=
  match q with
  | 0 => i
  | 1 => 4 * (3 - i % 4) + i / 4
  | 2 => 15 - i
  | _ => 4 * (i % 4) + (3 - i / 4)

/-- One quarter turn clockwise of a grid: `rot1(G)[r][c] = G[3 − c][r]` (spec/42_rotation.md R140). -/
def turnGrid (g : Grid) : Grid := Vector.ofFn fun i : Fin 16 => g[4 * (3 - i.val % 4) + i.val / 4]?.getD 0

/-- `q` quarter turns clockwise of a grid. -/
def turnGridBy (q : Nat) (g : Grid) : Grid := turnGrid^[q] g

/-- The sixteen bytes of a packed position. -/
def bytesOf (p : Packed) : List Byte := (List.range 16).map (byteAt p)

/-- A packed operand whose read has a value: driven by the requester, or fed back while a response is on the ports. -/
def Readable (s : State) (operand : PackedOperand) : Prop :=
  operand = .rsp → s.wasReset = true ∧ s.rsp.valid = true

end Sys2Proof.Certificates

open Sys2Proof Sys2Proof.Machine Sys2Proof.Certificates

/-! Reset, the edge and the response registers. -/

/-- spec/70_reset_and_hazards.md R180. -/
def Obligations.ResetEdgeClearsEveryResponseRegister : Prop :=
  ∀ s : State, s.ports.rst = true →
    ∃ t, step s = .next t ∧ t.cfg = s.cfg ∧ t.wasReset = true ∧ t.rsp.valid = false ∧ t.rsp.op = 0 ∧
      t.rsp.status = 0 ∧ t.rsp.cell = 0 ∧ t.rsp.exp = 0 ∧ t.rsp.value = 0 ∧ t.rsp.grid = 0 ∧ t.rsp.packed = 0

/-- spec/10_state.md R32: the reset values, `req_ready` the constant 1, the build's constants untouched. -/
def Obligations.ResetStateHoldsTheResetValues : Prop :=
  (∀ cfg : Config, (State.resetOf cfg).cfg = cfg ∧
    (State.resetOf cfg).rsp = { valid := false, op := 0, status := 0, cell := 0, exp := 0, value := 0, grid := 0,
                                packed := 0 }) ∧
  State.reset.rsp = { valid := false, op := 0, status := 0, cell := 0, exp := 0, value := 0, grid := 0, packed := 0 } ∧
  (∀ s : State, s.reqReady = true) ∧
  (∀ s t : State, s.ports.rst = true → step s = .next t → t.cfg = s.cfg)

/-- The model's choice of log entry 7: of all builds, `State.reset` is the reset state of the default build, whose
MAX_EXPONENT and VALUE_WIDTH are the defaults of spec/00_scope.md R7 and R9; that build is legal. -/
def Obligations.ResetStateIsOfTheDefaultBuild : Prop :=
  State.reset = State.resetOf { maxExp := 17, valueWidth := 32 } ∧ State.reset.cfg.Legal

/-- spec/10_state.md R30, third branch, and spec/70_reset_and_hazards.md R184: `rsp_valid` falls, everything else holds.
What the requester drives next is log entry 2. -/
def Obligations.IdleEdgeDropsValidAndHoldsTheData : Prop :=
  ∀ s : State, s.wasReset = true → s.ports.rst = false → s.ports.valid = false →
    step s = .next { s with rsp := { s.rsp with valid := false }
                            ports := s.script.headD s.ports
                            script := s.script.tail }

/-- spec/10_state.md R30, second branch: an edge with a request runs the decoded instruction, which is
never refused, and after it the requester drives its next entry (log entry 2). -/
def Obligations.StepRunsTheDecodedRequest : Prop :=
  ∀ s : State, s.wasReset = true → s.ports.rst = false → s.ports.valid = true →
    (∀ t, exec (decode s.ports.req) s = .next t →
      step s = .next { t with ports := t.script.headD t.ports, script := t.script.tail }) ∧
    (∀ f, exec (decode s.ports.req) s = .fault f → step s = .fault f) ∧
    (∀ r, exec (decode s.ports.req) s ≠ .refused r)

/-- spec/10_state.md R27, R34: a step writes no port and no parameter. The requester's script moves on by itself (log
entry 2), and the free-value counter moves only before the first reset (log entry 4). -/
def Obligations.StepWritesOnlyTheResponseRegisters : Prop :=
  ∀ s t : State, step s = .next t →
    ∃ (r : Rsp s.cfg.valueWidth) (w : Bool) (d : Nat),
      t = { s with rsp := r, wasReset := w, draws := d, ports := s.script.headD s.ports, script := s.script.tail } ∧
      (s.wasReset = true → w = true ∧ d = s.draws)

/-- The frame of every instruction (spec/10_state.md R29, R30, R34): a next state differs from the state before in the
response registers only, `rsp_valid` is 1 and `rsp_op` is the op code. -/
def Obligations.EveryInstructionWritesOnlyTheResponse : Prop :=
  ∀ (i : Instr) (s t : State), exec i s = .next t →
    ∃ status cell exp value grid packed, t = responded s i.op status cell exp value grid packed

/-- spec/20_memory.md R51, spec/60_exceptions.md R166: a response is on the ports after an edge exactly if the edge
accepted a request. -/
def Obligations.ResponseExactlyAfterAnAcceptedRequest : Prop :=
  ∀ s t : State, s.wasReset = true → step s = .next t → t.rsp.valid = (!s.ports.rst && s.ports.valid)

/-- spec/10_state.md R22, R24, R30 and spec/40_tile_codec.md R107: `req_ready` is 1, and every request whose operand is
readable is answered under its own op code, also right after another. Only UNPACK and ROTATE read `req_packed`: fed
back, it needs a response to feed back (R31 and the model's reading of it, log entry 5); an operation that does not name
`req_packed` is answered whatever drives it. -/
def Obligations.EveryPresentedRequestIsAnswered : Prop :=
  ∀ s : State, s.reqReady = true ∧
    (s.wasReset = true → s.ports.rst = false → s.ports.valid = true →
      (s.ports.req.op = 0b011#3 ∨ s.ports.req.op = 0b100#3 → Readable s s.ports.req.packed) →
      ∃ t, step s = .next t ∧ t.rsp.valid = true ∧ t.rsp.op = s.ports.req.op)

/-- spec/10_state.md R33. -/
def Obligations.ResponseDependsOnlyOnTheNamedPorts : Prop :=
  ∀ (s : State) (r : Rsp s.cfg.valueWidth) (p : Ports s.cfg.valueWidth) (script : List (Ports s.cfg.valueWidth))
    (d : Nat),
    s.wasReset = true → s.ports.rst = false → s.ports.valid = true → p.rst = false → p.valid = true →
    p.req.op = s.ports.req.op →
    (s.ports.req.op = 0b000#3 → p.req.value = s.ports.req.value) →
    (s.ports.req.op = 0b001#3 → p.req.exp = s.ports.req.exp) →
    (s.ports.req.op = 0b010#3 → p.req.grid = s.ports.req.grid) →
    (s.ports.req.op = 0b011#3 → ∃ x, s.ports.req.packed = .lit x ∧ p.req.packed = .lit x) →
    (s.ports.req.op = 0b100#3 →
      (∃ x, s.ports.req.packed = .lit x ∧ p.req.packed = .lit x) ∧ p.req.turns = s.ports.req.turns) →
    ∃ (answer : Rsp s.cfg.valueWidth) (p₁ p₂ : Ports s.cfg.valueWidth) (q₁ q₂ : List (Ports s.cfg.valueWidth)),
      step s = .next { s with rsp := answer, ports := p₁, script := q₁ } ∧
      step { s with rsp := r, ports := p, script := script, draws := d } =
        .next { s with rsp := answer, ports := p₂, script := q₂, draws := d }

/-- spec/20_memory.md R48, spec/60_exceptions.md R165: presenting a request again, which names no fed-back operand, gives
the same response. -/
def Obligations.RepeatedRequestGivesTheSameResponse : Prop :=
  ∀ (i : Instr) (s t : State), (∀ n, i ≠ .rotate .rsp n) → i ≠ .unpack .rsp → exec i s = .next t → exec i t = .next t

/-- spec/70_reset_and_hazards.md R181 and R183: an edge without `rst` before the first reset answers, and the block still
needs a reset. Nothing is said of the values (log entry 4). -/
def Obligations.EdgeBeforeResetLeavesTheBlockUnreset : Prop :=
  ∀ s : State, s.wasReset = false → s.ports.rst = false →
    ∃ t, step s = .next t ∧ t.wasReset = false ∧ t.cfg = s.cfg

/-- spec/70_reset_and_hazards.md R181, spec/93_implementation_defined.md I4: a read before reset is a fault. -/
def Obligations.ReadBeforeResetFaults : Prop :=
  ∀ s : State, s.wasReset = false →
    s.readValid = .error .readBeforeReset ∧ s.readOp = .error .readBeforeReset ∧
    s.readStatus = .error .readBeforeReset ∧ s.readCell = .error .readBeforeReset ∧
    s.readExp = .error .readBeforeReset ∧ s.readValue = .error .readBeforeReset ∧
    s.readGrid = .error .readBeforeReset ∧ s.readPacked = .error .readBeforeReset

/-- spec/10_state.md R31, spec/93_implementation_defined.md I5 and I7: a data register read without a response is a
fault, and with one it answers the register; a status code TEC never produces is a fault. -/
def Obligations.ReadNeedsAResponse : Prop :=
  ∀ s : State, s.wasReset = true →
    s.readValid = .ok s.rsp.valid ∧
    (s.rsp.valid = false →
      s.readOp = .error .readWithoutResponse ∧ s.readStatus = .error .readWithoutResponse ∧
      s.readCell = .error .readWithoutResponse ∧ s.readExp = .error .readWithoutResponse ∧
      s.readValue = .error .readWithoutResponse ∧ s.readGrid = .error .readWithoutResponse ∧
      s.readPacked = .error .readWithoutResponse) ∧
    (s.rsp.valid = true →
      s.readOp = .ok s.rsp.op ∧ s.readCell = .ok s.rsp.cell ∧ s.readExp = .ok s.rsp.exp ∧
      s.readValue = .ok s.rsp.value ∧ s.readGrid = .ok s.rsp.grid ∧ s.readPacked = .ok s.rsp.packed ∧
      (s.rsp.status = 0 → s.readStatus = .ok .ok) ∧ (s.rsp.status = 1 → s.readStatus = .ok .invalidTile) ∧
      (s.rsp.status = 2 → s.readStatus = .ok .invalidExponent) ∧ (s.rsp.status = 4 → s.readStatus = .ok .illegalOp) ∧
      (s.rsp.status = 3 ∨ 5 ≤ s.rsp.status.toNat → s.readStatus = .error .statusNeverProduced))

/-! The tile codec. -/

/-- spec/40_tile_codec.md R102: the response of ENCODE for every value the port can carry. -/
def Obligations.EncodeAnswersTheExponentOrInvalidTile : Prop :=
  ∀ (s : State) (v : Nat), v < 2 ^ s.cfg.valueWidth →
    (v = 0 → exec (.encode v) s = .next (responded s 0b000#3 0 0 0 0 0 0)) ∧
    (∀ k, 1 ≤ k → k ≤ s.cfg.maxExp → v = 2 ^ k →
      exec (.encode v) s = .next (responded s 0b000#3 0 0 (BitVec.ofNat 8 k) 0 0 0)) ∧
    (¬ ValidTile s.cfg v → exec (.encode v) s = .next (responded s 0b000#3 1 0 0 0 0 0))

/-- spec/40_tile_codec.md R103: ENCODE never maps an invalid value to an exponent, and no two values it accepts share
one. -/
def Obligations.EncodeNeverAliases : Prop :=
  ∀ (s t u : State) (v w : Nat), s.cfg.Legal → exec (.encode v) s = .next t → exec (.encode w) s = .next u →
    t.rsp.status = 0 → u.rsp.status = 0 → ValidTile s.cfg v ∧ (t.rsp.exp = u.rsp.exp → v = w)

/-- spec/40_tile_codec.md R104: the response of DECODE for every exponent. -/
def Obligations.DecodeAnswersTheValueOrInvalidExponent : Prop :=
  ∀ (s : State) (e : Exponent),
    (s.cfg.maxExp < e.toNat → exec (.decode e) s = .next (responded s 0b001#3 2 0 0 0 0 0)) ∧
    (e = 0 → exec (.decode e) s = .next (responded s 0b001#3 0 0 0 0 0 0)) ∧
    (1 ≤ e.toNat → e.toNat ≤ s.cfg.maxExp →
      exec (.decode e) s = .next (responded s 0b001#3 0 0 0 (1#_ <<< e.toNat) 0 0)) ∧
    (s.cfg.Legal → e.toNat ≤ s.cfg.maxExp → (1#s.cfg.valueWidth <<< e.toNat).toNat = 2 ^ e.toNat)

/-- spec/40_tile_codec.md R106. -/
def Obligations.EncodeAndDecodeAreInverse : Prop :=
  ∀ s : State, s.cfg.Legal →
    (∀ v, ValidTile s.cfg v → ∃ t u, exec (.encode v) s = .next t ∧ t.rsp.status = 0 ∧
      exec (.decode t.rsp.exp) t = .next u ∧ u.rsp.status = 0 ∧ u.rsp.value.toNat = v) ∧
    (∀ e : Exponent, e.toNat ≤ s.cfg.maxExp → ∃ t u, exec (.decode e) s = .next t ∧ t.rsp.status = 0 ∧
      exec (.encode t.rsp.value.toNat) t = .next u ∧ u.rsp.status = 0 ∧ u.rsp.exp = e)

/-! The position codec. -/

/-- spec/41_position_codec.md R120 and R121: the response of PACK for every grid the port can carry. -/
def Obligations.PackAnswersTheExponentsOrTheLowestInvalidCell : Prop :=
  ∀ (s : State) (g : Grid), GridFits s.cfg g →
    (GridValid s.cfg g →
      ∃ p, exec (.pack g) s = .next (responded s 0b010#3 0 0 0 0 0 p) ∧
        ∀ i : Fin 16, (g[i] = 0 → byteAt p i = 0) ∧
          ∀ k, 1 ≤ k → k ≤ s.cfg.maxExp → g[i] = 2 ^ k → byteAt p i = BitVec.ofNat 8 k) ∧
    (∀ i : Fin 16, ¬ ValidTile s.cfg g[i] → (∀ j : Fin 16, j < i → ValidTile s.cfg g[j]) →
      exec (.pack g) s = .next (responded s 0b010#3 1 (BitVec.ofNat 4 i.val) 0 0 0 0))

/-- spec/41_position_codec.md R122, spec/20_memory.md R43. -/
def Obligations.PackProducesValidExponentsOnly : Prop :=
  ∀ (s t : State) (g : Grid), s.cfg.Legal → exec (.pack g) s = .next t → t.rsp.status = 0 →
    ∀ i : Fin 16, (byteAt t.rsp.packed i).toNat ≤ s.cfg.maxExp ∧ (byteAt t.rsp.packed i = 0 ↔ g[i] = 0) ∧
      (g[i] ≠ 0 → 2 ^ (byteAt t.rsp.packed i).toNat = g[i])

/-- spec/41_position_codec.md R124 and R125: the response of UNPACK for every packed position. -/
def Obligations.UnpackAnswersTheValuesOrTheLowestInvalidByte : Prop :=
  ∀ (s : State) (p : Packed),
    ((∀ i : Fin 16, (byteAt p i).toNat ≤ s.cfg.maxExp) →
      ∃ g : GridBus s.cfg.valueWidth, exec (.unpack (.lit p)) s = .next (responded s 0b011#3 0 0 0 0 g 0) ∧
        ∀ i : Fin 16, (byteAt p i = 0 → cellAt g i = 0) ∧
          (byteAt p i ≠ 0 → cellAt g i = 1#_ <<< (byteAt p i).toNat)) ∧
    (∀ i : Fin 16, s.cfg.maxExp < (byteAt p i).toNat → (∀ j : Fin 16, j < i → (byteAt p j).toNat ≤ s.cfg.maxExp) →
      exec (.unpack (.lit p)) s = .next (responded s 0b011#3 2 (BitVec.ofNat 4 i.val) 0 0 0 0))

/-- spec/41_position_codec.md R126. -/
def Obligations.UnpackAfterPackReturnsTheGrid : Prop :=
  ∀ (s : State) (g : Grid), s.cfg.Legal → GridValid s.cfg g →
    ∃ t u, exec (.pack g) s = .next t ∧ t.rsp.status = 0 ∧
      exec (.unpack (.lit t.rsp.packed)) t = .next u ∧ u.rsp.status = 0 ∧
      ∀ i : Fin 16, (cellAt u.rsp.grid i).toNat = g[i]

/-- spec/41_position_codec.md R127: the grid unpacked, presented to PACK as the sixteen integers its cells hold. -/
def Obligations.PackAfterUnpackReturnsThePosition : Prop :=
  ∀ (s : State) (p : Packed), s.cfg.Legal → (∀ i : Fin 16, (byteAt p i).toNat ≤ s.cfg.maxExp) →
    ∃ t u, exec (.unpack (.lit p)) s = .next t ∧ t.rsp.status = 0 ∧
      exec (.pack (Vector.ofFn fun i : Fin 16 => (cellAt t.rsp.grid i).toNat)) t = .next u ∧ u.rsp.status = 0 ∧
      u.rsp.packed = p

/-- spec/41_position_codec.md R128. -/
def Obligations.AllZeroGridAndPositionCorrespond : Prop :=
  ∀ s : State, exec (.pack (Vector.replicate 16 0)) s = .next (responded s 0b010#3 0 0 0 0 0 0) ∧
    exec (.unpack (.lit 0)) s = .next (responded s 0b011#3 0 0 0 0 0 0)

/-- spec/41_position_codec.md R129: cell i goes to byte i, whatever the other cells hold. -/
def Obligations.PackTreatsEachCellAlone : Prop :=
  ∀ (s t u : State) (g h : Grid) (i : Fin 16), exec (.pack g) s = .next t → exec (.pack h) s = .next u →
    t.rsp.status = 0 → u.rsp.status = 0 → g[i] = h[i] → byteAt t.rsp.packed i = byteAt u.rsp.packed i

/-! The rotation engine. -/

/-- spec/42_rotation.md R143 and R144: ROTATE answers OK for every packed position and count, and byte i is the byte its
table names, the bytes not looked at. -/
def Obligations.RotateGathersByTheTable : Prop :=
  ∀ (s : State) (p : Packed) (n : Turns), ∃ q, Rotates s p n q ∧
    ∀ i : Fin 16, byteAt q i = byteAt p (rotSource (n.toInt % 4).toNat i)

/-- spec/42_rotation.md R142: the entries, the formulas, the control vectors, and T2, T3, T0 as T1 applied two, three and
four times. -/
def Obligations.RotationTablesAreTheSpecs : Prop :=
  (∀ (q : Fin 4) (i : Fin 16), ((rotTable (BitVec.ofNat 2 q.val))[i]).val = rotSource q i) ∧
  controlVector rotTable0 = 0x0f0e0d0c0b0a09080706050403020100#128 ∧
  controlVector rotTable1 = 0x03070b0f02060a0e0105090d0004080c#128 ∧
  controlVector rotTable2 = 0x000102030405060708090a0b0c0d0e0f#128 ∧
  controlVector rotTable3 = 0x0c0804000d0905010e0a06020f0b0703#128 ∧
  (∀ i : Fin 16, rotTable2[i] = rotTable1[rotTable1[i]] ∧ rotTable3[i] = rotTable1[rotTable1[rotTable1[i]]] ∧
    rotTable0[i] = rotTable1[rotTable1[rotTable1[rotTable1[i]]]])

/-- spec/42_rotation.md R141: the count used is the Euclidean remainder mod 4, also of a wider count the host truncates. -/
def Obligations.QuarterTurnsAreTheCountModFour : Prop :=
  (∀ n : Turns, quarterTurns n = n.extractLsb' 0 2 ∧ ((quarterTurns n).toNat : Int) = n.toInt % 4) ∧
  (∀ n : Int, ((quarterTurns (presentTurns n)).toNat : Int) = n % 4) ∧
  quarterTurns (presentTurns (-1)) = 3 ∧ quarterTurns (presentTurns (-2)) = 2 ∧ quarterTurns (presentTurns (-3)) = 1

/-- spec/42_rotation.md R146. -/
def Obligations.RotationGroupLaws : Prop :=
  ∀ (s : State) (p : Packed),
    (∀ n : Turns, ∃ q, Rotates s p n q ∧ Rotates s p (BitVec.ofInt 32 (n.toInt % 4)) q) ∧
    Rotates s p 0 p ∧
    (∃ q r, Rotates s p 1 q ∧ Rotates s q 1 r ∧ Rotates s p 2 r) ∧
    (∃ q r u, Rotates s p 1 q ∧ Rotates s q 1 r ∧ Rotates s r 1 u ∧ Rotates s u 1 p) ∧
    (∀ a b : Turns, ∃ q r, Rotates s p a q ∧ Rotates s q b r ∧
      Rotates s p (BitVec.ofInt 32 ((a.toInt + b.toInt) % 4)) r)

/-- spec/42_rotation.md R147. -/
def Obligations.RotateIsABijectionThatKeepsTheBytes : Prop :=
  ∀ (s : State) (n : Turns) (p : Packed),
    (∃ q, Rotates s p n q ∧ Rotates s q (BitVec.ofInt 32 (4 - n.toInt % 4)) p ∧ (bytesOf q).Perm (bytesOf p)) ∧
    (∃ q, Rotates s q n p ∧ Rotates s p (BitVec.ofInt 32 (4 - n.toInt % 4)) q)

/-- spec/42_rotation.md R148: the data flow PACK, ROTATE, UNPACK turns the grid clockwise. -/
def Obligations.RotationCommutesWithTheCodec : Prop :=
  ∀ (s : State) (g : Grid) (n : Turns), s.cfg.Legal → GridValid s.cfg g →
    ∃ t u v, exec (.pack g) s = .next t ∧ t.rsp.status = 0 ∧
      exec (.rotate (.lit t.rsp.packed) n) t = .next u ∧ u.rsp.status = 0 ∧
      exec (.unpack (.lit u.rsp.packed)) u = .next v ∧ v.rsp.status = 0 ∧
      ∀ i : Fin 16, (cellAt v.rsp.grid i).toNat = (turnGridBy (n.toInt % 4).toNat g)[i]

/-- spec/10_state.md R34, spec/30_encoding.md R69: a fed-back operand is the value the register held before the edge. -/
def Obligations.FeedbackUsesTheValueBeforeTheEdge : Prop :=
  ∀ s : State, s.wasReset = true → s.rsp.valid = true →
    exec (.unpack .rsp) s = exec (.unpack (.lit s.rsp.packed)) s ∧
    ∀ n : Turns, exec (.rotate .rsp n) s = exec (.rotate (.lit s.rsp.packed) n) s

/-- Feeding back `rsp_packed` is a read of that register. First clause: with no response on the ports it has no value
(spec/10_state.md R31, spec/92_eei_decisions.md D18; the model's reading for a fed-back operand, log entry 5). Second
clause: before the first reset it has none, whatever `rsp_valid` holds (spec/70_reset_and_hazards.md R181, D17; log
entry 4). -/
def Obligations.FeedbackWithoutResponseFaults : Prop :=
  ∀ s : State,
    (s.wasReset = true → s.rsp.valid = false →
      exec (.unpack .rsp) s = .fault .readWithoutResponse ∧
      ∀ n : Turns, exec (.rotate .rsp n) s = .fault .readWithoutResponse) ∧
    (s.wasReset = false →
      exec (.unpack .rsp) s = .fault .readBeforeReset ∧
      ∀ n : Turns, exec (.rotate .rsp n) s = .fault .readBeforeReset)

/-- spec/70_reset_and_hazards.md R186: ROTATE held for m edges with `rsp_packed` fed back is ROTATE by m·qt quarter
turns. With an empty script the requester holds its ports (log entry 2). -/
def Obligations.HeldRotateTurnsOncePerEdge : Prop :=
  ∀ (m : Nat) (s : State) (n : Turns), s.wasReset = true → s.rsp.valid = true → s.script = [] →
    s.ports.rst = false → s.ports.valid = true → s.ports.req.op = 0b100#3 → s.ports.req.packed = .rsp →
    s.ports.req.turns = n →
    ∃ t, Host.Core.run Sys2Proof.core m s = .next t ∧
      Rotates s s.rsp.packed (BitVec.ofInt 32 (m * (n.toInt % 4) % 4)) t.rsp.packed

/-- spec/30_encoding.md R70. -/
def Obligations.PseudoInstructionsAreRotations : Prop :=
  ∀ p : PackedOperand,
    (Pseudo.rotcw p).expand = .rotate p 1 ∧ (Pseudo.rot180 p).expand = .rotate p 2 ∧
    (Pseudo.rotccw p).expand = .rotate p 3 ∧ (Pseudo.rotid p).expand = .rotate p 0 ∧
    (∀ s : State, exec (Pseudo.rotccw p).expand s = exec (.rotate p (BitVec.ofInt 32 (-1))) s) ∧
    (∀ (s : State) (x : Packed), exec (Pseudo.rotid (.lit x)).expand s = .next (responded s 0b100#3 0 0 0 0 0 x))

/-! Reserved ops, status, and the whole-machine rules. -/

/-- spec/30_encoding.md R62 and R63: the reserved ops are answered ILLEGAL_OP with zero data. The spec's advice to refuse
them in a model is not followed (log entry 1). -/
def Obligations.ReservedOpsAnswerIllegalOp : Prop :=
  ∀ s : State, exec .reserved101 s = .next (responded s 0b101#3 4 0 0 0 0 0) ∧
    exec (.reserved11x false) s = .next (responded s 0b110#3 4 0 0 0 0 0) ∧
    exec (.reserved11x true) s = .next (responded s 0b111#3 4 0 0 0 0 0)

/-- spec/60_exceptions.md R164. -/
def Obligations.NoPartialResultAndZeroFill : Prop :=
  ∀ (i : Instr) (s t : State), exec i s = .next t →
    (t.rsp.status ≠ 0 → t.rsp.exp = 0 ∧ t.rsp.value = 0 ∧ t.rsp.grid = 0 ∧ t.rsp.packed = 0) ∧
    (t.rsp.status = 0 →
      (t.rsp.op ≠ 0b000#3 → t.rsp.exp = 0) ∧ (t.rsp.op ≠ 0b001#3 → t.rsp.value = 0) ∧
      (t.rsp.op ≠ 0b011#3 → t.rsp.grid = 0) ∧ (t.rsp.op ≠ 0b010#3 → t.rsp.op ≠ 0b100#3 → t.rsp.packed = 0))

/-- spec/60_exceptions.md R162 and R163, spec/10_state.md R28: which statuses each operation reports, and with which
cell. -/
def Obligations.StatusesOfEachOperation : Prop :=
  ∀ (i : Instr) (s t : State), exec i s = .next t →
    (t.rsp.op = 0b000#3 → (t.rsp.status = 0 ∨ t.rsp.status = 1) ∧ t.rsp.cell = 0) ∧
    (t.rsp.op = 0b001#3 → (t.rsp.status = 0 ∨ t.rsp.status = 2) ∧ t.rsp.cell = 0) ∧
    (t.rsp.op = 0b010#3 → t.rsp.status = 0 ∨ t.rsp.status = 1) ∧
    (t.rsp.op = 0b011#3 → t.rsp.status = 0 ∨ t.rsp.status = 2) ∧
    (t.rsp.op = 0b100#3 → t.rsp.status = 0) ∧
    (5 ≤ t.rsp.op.toNat → t.rsp.status = 4 ∧ t.rsp.cell = 0) ∧
    (t.rsp.status = 0 → t.rsp.cell = 0)

/-- The invariant of the response registers (spec/60_exceptions.md R161, R162, R164; spec/20_memory.md R43) is kept by
every step, whatever the requester drives. -/
def Obligations.StepKeepsTheResponseInvariant : Prop :=
  ∀ s t : State, s.Inv → step s = .next t → t.Inv

/-- The invariant holds after reset, of every build. -/
def Obligations.ResetMeetsTheResponseInvariant : Prop := State.reset.Inv ∧ ∀ cfg, (State.resetOf cfg).Inv

/-! Encoding. -/

/-- spec/30_encoding.md R61. -/
def Obligations.OpcodeMapIsTheSpecs : Prop :=
  ∀ (vw : Nat) (r : Request vw),
    (r.op = 0b000#3 → decode r = .encode r.value.toNat) ∧
    (r.op = 0b001#3 → decode r = .decode r.exp) ∧
    (r.op = 0b010#3 → decode r = .pack (Vector.ofFn fun i : Fin 16 => (cellAt r.grid i).toNat)) ∧
    (r.op = 0b011#3 → decode r = .unpack r.packed) ∧
    (r.op = 0b100#3 → decode r = .rotate r.packed r.turns) ∧
    (r.op = 0b101#3 → decode r = .reserved101) ∧
    (r.op = 0b110#3 → decode r = .reserved11x false) ∧
    (r.op = 0b111#3 → decode r = .reserved11x true)

/-- spec/opcode_table.json and spec/30_encoding.md R61: each op value falls under one row, whose mnemonic is that of the
instruction decoded. -/
def Obligations.OneTableRowCoversEachRequest : Prop :=
  ∀ (vw : Nat) (r : Request vw), ∃ row, opcodeTable.filter (fun x => x.covers r.op) = [row] ∧
    row.mnemonic = (decode r).mnemonic

/-- spec/30_encoding.md R60 to R69, spec/10_state.md R23: an instruction that fits the ports is decoded back from them,
every operand at every value. -/
def Obligations.DecodeOfEncodeIsTheInstruction : Prop :=
  ∀ (cfg : Config) (i : Instr), i.wf cfg = true → decode (encode cfg.valueWidth i) = i

/-- The other direction: encoding what was decoded drives the op and the ports the operation names as they were
(spec/30_encoding.md R60, spec/10_state.md R21). -/
def Obligations.EncodeOfDecodeKeepsTheNamedPorts : Prop :=
  ∀ (vw : Nat) (r : Request vw),
    (encode vw (decode r)).op = r.op ∧
    (r.op = 0b000#3 → (encode vw (decode r)).value = r.value) ∧
    (r.op = 0b001#3 → (encode vw (decode r)).exp = r.exp) ∧
    (r.op = 0b010#3 → (encode vw (decode r)).grid = r.grid) ∧
    (r.op = 0b011#3 → (encode vw (decode r)).packed = r.packed) ∧
    (r.op = 0b100#3 → (encode vw (decode r)).packed = r.packed ∧ (encode vw (decode r)).turns = r.turns)

/-- spec/30_encoding.md R65: what is decoded from the ports fits the ports. -/
def Obligations.DecodedInstructionIsWellFormed : Prop :=
  ∀ (cfg : Config) (r : Request cfg.valueWidth), (decode r).wf cfg = true

/-- The words of spec/opcode_table.json decode by the opcode map of spec/30_encoding.md R61. That a bare word is read as
req_op = bits [2:0] with every operand port zero is the model's interface (log entry 9, DESIGN CHOICE). -/
def Obligations.TableWordsDecode : Prop :=
  decodeTableWord 8 0b000 = some (.encode 0) ∧ decodeTableWord 8 0b001 = some (.decode 0) ∧
  decodeTableWord 8 0b010 = some (.pack (Vector.replicate 16 0)) ∧
  decodeTableWord 8 0b011 = some (.unpack (.lit 0)) ∧ decodeTableWord 8 0b100 = some (.rotate (.lit 0) 0) ∧
  decodeTableWord 8 0b101 = some .reserved101 ∧ decodeTableWord 8 0b110 = some (.reserved11x false) ∧
  decodeTableWord 8 0b111 = some (.reserved11x true)

/-! Layout, the host's wire format and the requester's duties. -/

/-- spec/20_memory.md R41 and R42: the layout of a packed position. -/
def Obligations.LayoutOfThePackedPosition : Prop :=
  ∀ p : Packed,
    halfLane p 0 = p.extractLsb' 0 64 ∧ halfLane p 1 = p.extractLsb' 64 64 ∧
    (∀ i : Fin 16, byte p i = p.extractLsb' (8 * i.val) 8 ∧
      byte p i = (halfLane p (i.val / 8)).extractLsb' (8 * (i.val % 8)) 8) ∧
    (∀ (r c : Fin 4), idx r c = 4 * r.val + c.val)

/-- spec/10_state.md R23: cell i of a grid on the bus is at bits [VALUE_WIDTH·i + VALUE_WIDTH − 1 : VALUE_WIDTH·i], and
reading the bus back gives the grid. -/
def Obligations.GridBusHoldsCellIAtItsBits : Prop :=
  ∀ (cfg : Config) (g : Grid), GridFits cfg g →
    (∀ i : Fin 16, (cellAt (busOfGrid cfg.valueWidth g) i).toNat = g[i]) ∧
    gridOfBus (busOfGrid cfg.valueWidth g) = g

/-- spec/20_memory.md R45. -/
def Obligations.WireFormatStoresByteIAtBasePlusI : Prop :=
  ∀ (m : Memory) (base : Nat) (p : Packed),
    (∀ i : Fin 16, (storePacked m base p).readByte (base + i.val) = some (byteAt p i)) ∧
    (∀ a, a < base ∨ base + 16 ≤ a → (storePacked m base p).readByte a = m.readByte a) ∧
    storeLanes m base p = storePacked m base p ∧
    loadPacked (storePacked m base p) base = some p

/-- spec/20_memory.md R47: 64-bit and 128-bit reads of the stored form, little-endian and big-endian. -/
def Obligations.WideReadsOfTheStoredForm : Prop :=
  ∀ (m : Memory) (base : Nat) (p : Packed),
    memRead (storePacked m base p) base 8 = some (p.extractLsb' 0 64) ∧
    memRead (storePacked m base p) (base + 8) 8 = some (p.extractLsb' 64 64) ∧
    memRead (storePacked m base p) base 16 = some p ∧
    (∃ x : HalfLane, memReadBig (storePacked m base p) base 8 = some x ∧
      (∀ i : Fin 8, x.extractLsb' (8 * (7 - i.val)) 8 = byteAt p i) ∧ swapLane x = p.extractLsb' 0 64)

/-- spec/30_encoding.md R65, spec/93_implementation_defined.md I11: an operand that does not fit its port is no request
and is refused, never truncated. -/
def Obligations.OperandWiderThanItsPortIsRefused : Prop :=
  ∀ s : State,
    (∀ v, 2 ^ s.cfg.valueWidth ≤ v → exec (.encode v) s = .refused .operandWiderThanPort) ∧
    (∀ g, ¬ GridFits s.cfg g → exec (.pack g) s = .refused .operandWiderThanPort)

/-- spec/60_exceptions.md R167 and R168, spec/92_eei_decisions.md D24: the requester presents a value whole or reports
the error itself. -/
def Obligations.RequesterNeverTruncates : Prop :=
  (∀ (cfg : Config) (v : Nat), (v < 2 ^ cfg.valueWidth → ∃ x, presentValue cfg v = .ok x ∧ x.toNat = v) ∧
    (2 ^ cfg.valueWidth ≤ v → presentValue cfg v = .error .invalidTile)) ∧
  (∀ (cfg : Config) (g : Grid),
    (GridFits cfg g → ∃ x, presentGrid cfg g = .ok x ∧ ∀ i : Fin 16, (cellAt x i).toNat = g[i]) ∧
    (¬ GridFits cfg g → presentGrid cfg g = .error .invalidTile)) ∧
  (∀ e : Nat, (e < 256 → ∃ x, presentExp e = .ok x ∧ x.toNat = e) ∧
    (256 ≤ e → presentExp e = .error .invalidExponent)) ∧
  (∀ es : Grid, ((∀ i : Fin 16, es[i] < 256) → ∃ x, presentBytes es = .ok x ∧
      ∀ i : Fin 16, (byteAt x i).toNat = es[i]) ∧
    ((∃ i : Fin 16, 256 ≤ es[i]) → presentBytes es = .error .invalidExponent))

/-- A word of the opcode table placed on the ports is what the next step runs (the model's interface, log entry 3). -/
def Obligations.FetchWordIsRunByTheNextStep : Prop :=
  ∀ (s : State) (w : Nat), w < 8 →
    ∃ i, (s.cfg = Config.standard → decodeTableWord 8 w = some i) ∧ i.op = BitVec.ofNat 3 w ∧
      step (s.withFetchWord 8 w) = thenDrive (exec i (s.withFetchWord 8 w)) ∧
      ∃ t, exec i (s.withFetchWord 8 w) = .next t ∧ t.rsp.valid = true ∧ t.rsp.op = BitVec.ofNat 3 w
end

