-- ==== Sys2Proof/Laws/Layout.lean ====
section
/-! SUPPORT. The laws of the bit placement: an element of an assembled vector is the one put there, and a vector is
known by its elements. -/

namespace Sys2Proof.Machine

theorem element_getLsbD {w n : Nat} (v : BitVec n) (i j : Nat) :
    (element w v i).getLsbD j = (decide (j < w) && v.getLsbD (w * i + j)) := by
  simp [element]

theorem assemble_getLsbD (w n : Nat) (f : Nat → BitVec w) (k j : Nat) :
    (assemble w n f k).getLsbD j =
      (decide (j < n) && (decide (j < w * k) && (f (j / w)).getLsbD (j % w))) := by
  induction k with
  | zero => simp [assemble]
  | succ k ih =>
    simp only [assemble, BitVec.getLsbD_or, ih, BitVec.getLsbD_shiftLeft, BitVec.getLsbD_setWidth]
    have hk : w * (k + 1) = w * k + w := Nat.mul_succ w k
    by_cases hn : j < n
    · by_cases hj : j < w * k
      · simp [hn, hj, show j < w * (k + 1) by omega]
      · by_cases hj' : j < w * (k + 1)
        · have hw : 0 < w := by omega
          have hd : j / w = k := Nat.div_eq_of_lt_le (by rw [Nat.mul_comm]; omega) (by rw [Nat.mul_comm]; exact hj')
          have hm : j % w = j - w * k := by rw [← hd, Nat.mod_eq_sub]
          simp [hn, hj, hj', hd, hm, show j - w * k < n by omega]
        · have : (f k).getLsbD (j - w * k) = false := BitVec.getLsbD_of_ge _ _ (by omega)
          simp [hj, hj', this]
    · simp [hn]

theorem element_assemble {w n k i : Nat} (f : Nat → BitVec w) (hi : i < k) (hn : w * k ≤ n) :
    element w (assemble w n f k) i = f i := by
  apply BitVec.eq_of_getLsbD_eq
  intro j hj
  have hk : w * i + w ≤ w * k := by rw [← Nat.mul_succ]; exact Nat.mul_le_mul_left w hi
  have hd : (w * i + j) / w = i := by
    rw [Nat.mul_add_div (by omega), Nat.div_eq_of_lt hj, Nat.add_zero]
  have hm : (w * i + j) % w = j := by rw [Nat.mul_add_mod, Nat.mod_eq_of_lt hj]
  rw [element_getLsbD, assemble_getLsbD, hd, hm]
  simp only [hj, show w * i + j < n by omega, show w * i + j < w * k by omega, decide_true, Bool.true_and]

/-- A vector of k elements is known by them. -/
theorem eq_of_element_eq {w k n : Nat} (hn : n = w * k) {u v : BitVec n}
    (h : ∀ i, i < k → element w u i = element w v i) : u = v := by
  subst hn
  apply BitVec.eq_of_getLsbD_eq
  intro j hj
  have hw : 0 < w := Nat.pos_of_mul_pos_right (Nat.lt_of_le_of_lt (Nat.zero_le j) hj)
  have hi : j / w < k := Nat.div_lt_of_lt_mul hj
  have e := congrArg (fun x => x.getLsbD (j % w)) (h _ hi)
  simpa only [element_getLsbD, Nat.mod_lt _ hw, Nat.div_add_mod, decide_true, Bool.true_and] using e

theorem byte_packedOfBytes (f : Nat → Byte) {i : Nat} (hi : i < 16) : byte (packedOfBytes f) i = f i :=
  element_assemble f hi (by decide)

theorem packed_ext {p q : Packed} (h : ∀ i, i < 16 → byte p i = byte q i) : p = q :=
  eq_of_element_eq (w := 8) (k := 16) (by decide) h

theorem packedOfBytes_byte (p : Packed) : packedOfBytes (byte p) = p :=
  packed_ext fun _ hi => byte_packedOfBytes _ hi

theorem cell_busOfCells {vw : Nat} (f : Nat → TileValue vw) {i : Nat} (hi : i < 16) : cell (busOfCells f) i = f i :=
  element_assemble f hi (by rw [Nat.mul_comm])

theorem bus_ext {vw : Nat} {g h : GridBus vw} (e : ∀ i, i < 16 → cell g i = cell h i) : g = h :=
  eq_of_element_eq (w := vw) (k := 16) (Nat.mul_comm 16 vw) e

theorem byte_zero (i : Nat) : byte 0 i = 0 := by
  apply BitVec.eq_of_getLsbD_eq
  intro j hj
  simp [byte, element_getLsbD]

theorem cell_zero {vw : Nat} (i : Nat) : cell (0 : GridBus vw) i = 0 := by
  apply BitVec.eq_of_getLsbD_eq
  intro j hj
  simp [cell, element_getLsbD]

theorem gridAt_eq (g : Grid) {i : Nat} (hi : i < 16) : gridAt g i = g[i] := by simp [gridAt, hi]

theorem grid_ext {g h : Grid} (e : ∀ i, i < 16 → gridAt g i = gridAt h i) : g = h := by
  apply Vector.ext
  intro i hi
  rw [← gridAt_eq g hi, ← gridAt_eq h hi, e i hi]

theorem gridAt_gridOfBus {vw : Nat} (b : GridBus vw) {i : Nat} (hi : i < 16) :
    gridAt (gridOfBus b) i = (cell b i).toNat := by
  rw [gridAt_eq _ hi]; simp [gridOfBus]

theorem cell_busOfGrid {vw : Nat} (g : Grid) {i : Nat} (hi : i < 16) :
    cell (busOfGrid vw g) i = BitVec.ofNat vw (gridAt g i) := cell_busOfCells _ hi

/-- Every cell of a grid that fits the port does. -/
theorem all_fitsPort_iff (cfg : Config) (g : Grid) :
    g.toList.all (fitsPort cfg) = true ↔ ∀ i, i < 16 → gridAt g i < 2 ^ cfg.valueWidth := by
  rw [List.all_eq_true]
  constructor
  · intro h i hi
    rw [gridAt_eq g hi]
    exact of_decide_eq_true (h _ (by simp))
  · intro h v hv
    obtain ⟨i, hi, rfl⟩ := List.getElem_of_mem hv
    simp only [Vector.length_toList] at hi
    have := h i hi
    rw [gridAt_eq g hi] at this
    simpa [fitsPort] using this

end Sys2Proof.Machine
end

