-- ==== Sys2Proof/Laws/State.lean ====
section
/-! SUPPORT. One lemma per field per update of State, true by rfl; and what the requester's reads answer. -/

namespace Sys2Proof.Machine

section Accept
variable (s : State) (op : OpCode) (out : Out s.cfg.valueWidth)

@[simp] theorem accept_cfg : (s.accept op out).cfg = s.cfg := rfl
@[simp] theorem accept_wasReset : (s.accept op out).wasReset = s.wasReset := rfl
@[simp] theorem accept_ports : (s.accept op out).ports = s.ports := rfl
@[simp] theorem accept_script : (s.accept op out).script = s.script := rfl
@[simp] theorem accept_draws : (s.accept op out).draws = s.draws := rfl
@[simp] theorem accept_rsp_valid : (s.accept op out).rsp.valid = true := rfl
@[simp] theorem accept_rsp_op : (s.accept op out).rsp.op = op := rfl
@[simp] theorem accept_rsp_status : (s.accept op out).rsp.status = out.status := rfl
@[simp] theorem accept_rsp_cell : (s.accept op out).rsp.cell = out.cell := rfl
@[simp] theorem accept_rsp_exp : (s.accept op out).rsp.exp = out.exp := rfl
@[simp] theorem accept_rsp_value : (s.accept op out).rsp.value = out.value := rfl
@[simp] theorem accept_rsp_grid : (s.accept op out).rsp.grid = out.grid := rfl
@[simp] theorem accept_rsp_packed : (s.accept op out).rsp.packed = out.packed := rfl

end Accept

section Edges
variable (s : State)

@[simp] theorem resetEdge_cfg : s.resetEdge.cfg = s.cfg := rfl
@[simp] theorem resetEdge_wasReset : s.resetEdge.wasReset = true := rfl
@[simp] theorem resetEdge_rsp : s.resetEdge.rsp = Rsp.zero s.cfg.valueWidth := rfl
@[simp] theorem resetEdge_ports : s.resetEdge.ports = s.ports := rfl
@[simp] theorem resetEdge_script : s.resetEdge.script = s.script := rfl
@[simp] theorem resetEdge_draws : s.resetEdge.draws = s.draws := rfl

@[simp] theorem idleEdge_cfg : s.idleEdge.cfg = s.cfg := rfl
@[simp] theorem idleEdge_wasReset : s.idleEdge.wasReset = s.wasReset := rfl
@[simp] theorem idleEdge_rsp : s.idleEdge.rsp = { s.rsp with valid := false } := rfl
@[simp] theorem idleEdge_ports : s.idleEdge.ports = s.ports := rfl
@[simp] theorem idleEdge_script : s.idleEdge.script = s.script := rfl
@[simp] theorem idleEdge_draws : s.idleEdge.draws = s.draws := rfl

@[simp] theorem powerUpEdge_cfg : s.powerUpEdge.cfg = s.cfg := rfl
@[simp] theorem powerUpEdge_wasReset : s.powerUpEdge.wasReset = s.wasReset := rfl
@[simp] theorem powerUpEdge_rsp : s.powerUpEdge.rsp = Rsp.unspecified s.cfg.valueWidth s.draws := rfl
@[simp] theorem powerUpEdge_ports : s.powerUpEdge.ports = s.ports := rfl
@[simp] theorem powerUpEdge_script : s.powerUpEdge.script = s.script := rfl
@[simp] theorem powerUpEdge_draws : s.powerUpEdge.draws = s.draws + 1 := rfl

@[simp] theorem driveNext_cfg : s.driveNext.cfg = s.cfg := rfl
@[simp] theorem driveNext_wasReset : s.driveNext.wasReset = s.wasReset := rfl
@[simp] theorem driveNext_rsp : s.driveNext.rsp = s.rsp := rfl
@[simp] theorem driveNext_ports : s.driveNext.ports = s.script.headD s.ports := rfl
@[simp] theorem driveNext_script : s.driveNext.script = s.script.tail := rfl
@[simp] theorem driveNext_draws : s.driveNext.draws = s.draws := rfl

end Edges

section Raise
variable (vw : Nat) (status : Status) (c : CellIndex)

@[simp] theorem raise_status : (raise status c : Out vw).status = status.code := rfl
@[simp] theorem raise_cell : (raise status c : Out vw).cell = c := rfl
@[simp] theorem raise_exp : (raise status c : Out vw).exp = 0 := rfl
@[simp] theorem raise_value : (raise status c : Out vw).value = 0 := rfl
@[simp] theorem raise_grid : (raise status c : Out vw).grid = 0 := rfl
@[simp] theorem raise_packed : (raise status c : Out vw).packed = 0 := rfl

end Raise

/-- A data register read answers the register exactly after reset and with a response on the ports. -/
theorem readData_ok_iff (s : State) {α : Type} (r x : α) :
    s.readData r = .ok x ↔ s.wasReset = true ∧ s.rsp.valid = true ∧ r = x := by
  unfold State.readData
  cases s.wasReset <;> cases s.rsp.valid <;> simp

end Sys2Proof.Machine
end

