-- ==== Sys2Proof/Laws/Operands.lean ====
section
/-! SUPPORT. What the operand reads answer. -/

namespace Sys2Proof.Machine

theorem valueOperand_fits {cfg : Config} {v : Nat} (h : v < 2 ^ cfg.valueWidth) :
    valueOperand cfg v = .ok (BitVec.ofNat cfg.valueWidth v) := by
  simp [valueOperand, fitsPort, h]

theorem valueOperand_wide {cfg : Config} {v : Nat} (h : 2 ^ cfg.valueWidth ≤ v) :
    valueOperand cfg v = .error .operandWiderThanPort := by
  simp [valueOperand, fitsPort, Nat.not_lt.mpr h]

theorem gridOperand_fits {cfg : Config} {g : Grid} (h : g.toList.all (fitsPort cfg) = true) :
    gridOperand cfg g = .ok (busOfGrid cfg.valueWidth g) := by
  simp only [gridOperand, h, if_true]

theorem gridOperand_wide {cfg : Config} {g : Grid} (h : g.toList.all (fitsPort cfg) = false) :
    gridOperand cfg g = .error .operandWiderThanPort := by
  simp [gridOperand, h]

@[simp] theorem packedOperand_lit (s : State) (p : Packed) : packedOperand s (.lit p) = .ok p := rfl
@[simp] theorem packedOperand_rsp (s : State) : packedOperand s .rsp = s.readPacked := rfl

@[simp] theorem orRefuse_ok {α : Type} (a : α) (go : α → Outcome) : orRefuse (.ok a) go = go a := rfl
@[simp] theorem orRefuse_error {α : Type} (r : Refusal) (go : α → Outcome) :
    orRefuse (.error r) go = .refused r := rfl
@[simp] theorem orFault_ok {α : Type} (a : α) (go : α → Outcome) : orFault (.ok a) go = go a := rfl
@[simp] theorem orFault_error {α : Type} (f : Fault) (go : α → Outcome) : orFault (.error f) go = .fault f := rfl

theorem orRefuse_next {α : Type} {x : Except Refusal α} {go : α → Outcome} {t : State}
    (h : orRefuse x go = .next t) : ∃ a, x = .ok a ∧ go a = .next t := by
  cases x with
  | ok a => exact ⟨a, rfl, h⟩
  | error r => exact nomatch h

theorem orFault_next {α : Type} {x : Except Fault α} {go : α → Outcome} {t : State}
    (h : orFault x go = .next t) : ∃ a, x = .ok a ∧ go a = .next t := by
  cases x with
  | ok a => exact ⟨a, rfl, h⟩
  | error f => exact nomatch h

end Sys2Proof.Machine
end

