-- ==== Sys2Proof/Laws/Dispatch.lean ====
section
/-! SUPPORT. What an instruction can do, said once: it answers a state whose response registers hold its op code and the
result its operation gives; and what an edge can do. -/

namespace Sys2Proof.Machine

/-- The results an instruction can have, by operation. -/
inductive ResultOf (s : State) : Instr → Out s.cfg.valueWidth → Prop where
  | encode {value : Nat} {v : TileValue s.cfg.valueWidth} (h : valueOperand s.cfg value = .ok v) :
      ResultOf s (.encode value) (encodeOut s.cfg v)
  | decode (e : Exponent) : ResultOf s (.decode e) (decodeOut s.cfg e)
  | pack {grid : Grid} {g : GridBus s.cfg.valueWidth} (h : gridOperand s.cfg grid = .ok g) :
      ResultOf s (.pack grid) (packOut s.cfg g)
  | unpack {packed : PackedOperand} {p : Packed} (h : packedOperand s packed = .ok p) :
      ResultOf s (.unpack packed) (unpackOut s.cfg p)
  | rotate {packed : PackedOperand} {p : Packed} (turns : Turns) (h : packedOperand s packed = .ok p) :
      ResultOf s (.rotate packed turns) (rotateOut s.cfg.valueWidth p turns)
  | reserved101 : ResultOf s .reserved101 (raise .illegalOp 0)
  | reserved11x (low : Bool) : ResultOf s (.reserved11x low) (raise .illegalOp 0)

/-- An instruction that answers a next state has accepted the request with a result of its operation. -/
theorem exec_next {i : Instr} {s t : State} (h : exec i s = .next t) :
    ∃ out, ResultOf s i out ∧ t = s.accept i.op out := by
  cases i with
  | encode value =>
    obtain ⟨v, hv, e⟩ := orRefuse_next h
    exact ⟨_, .encode hv, by injection e with e; exact e.symm⟩
  | decode e => exact ⟨_, .decode e, by injection h with h; exact h.symm⟩
  | pack grid =>
    obtain ⟨g, hg, e⟩ := orRefuse_next h
    exact ⟨_, .pack hg, by injection e with e; exact e.symm⟩
  | unpack packed =>
    obtain ⟨p, hp, e⟩ := orFault_next h
    exact ⟨_, .unpack hp, by injection e with e; exact e.symm⟩
  | rotate packed turns =>
    obtain ⟨p, hp, e⟩ := orFault_next h
    exact ⟨_, .rotate turns hp, by injection e with e; exact e.symm⟩
  | reserved101 => exact ⟨_, .reserved101, by injection h with h; exact h.symm⟩
  | reserved11x low => exact ⟨_, .reserved11x low, by injection h with h; exact h.symm⟩

theorem thenDrive_next {o : Outcome} {t : State} (h : thenDrive o = .next t) :
    ∃ u, o = .next u ∧ t = u.driveNext := by
  cases o with
  | next u => exact ⟨u, rfl, by injection h with h; exact h.symm⟩
  | fault f => exact nomatch h
  | refused r => exact nomatch h

/-- Everything an edge that answers a next state can have done. -/
theorem step_next {s t : State} (h : step s = .next t) :
    (s.ports.rst = true ∧ t = s.resetEdge.driveNext) ∨
    (s.ports.rst = false ∧ s.wasReset = true ∧ s.ports.valid = true ∧
      ∃ u, exec s.presented s = .next u ∧ t = u.driveNext) ∨
    (s.ports.rst = false ∧ s.wasReset = true ∧ s.ports.valid = false ∧ t = s.idleEdge.driveNext) ∨
    (s.ports.rst = false ∧ s.wasReset = false ∧ t = s.powerUpEdge.driveNext) := by
  unfold step clockEdge at h
  cases hr : s.ports.rst <;> cases hw : s.wasReset <;> cases hv : s.ports.valid <;>
    simp only [hr, hw, hv, if_true, if_false, Bool.false_eq_true] at h <;>
    obtain ⟨u, hu, rfl⟩ := thenDrive_next h
  case false.true.true => exact .inr (.inl ⟨rfl, rfl, rfl, u, hu, rfl⟩)
  all_goals injection hu with hu; subst hu; simp

end Sys2Proof.Machine
end

