-- ==== Sys2Proof/Laws/Flags.lean ====
section
/-! SUPPORT. What the validity checks and the lowest failing index say. -/

namespace Sys2Proof.Machine

/-- On the value of a nonzero v, `v AND (v − 1)` in VALUE_WIDTH bits is the one on the integers. -/
theorem toNat_and_sub_one {vw : Nat} {v : TileValue vw} (h : v.toNat ≠ 0) :
    (v &&& (v - 1)).toNat = v.toNat &&& (v.toNat - 1) := by
  have hvw : 0 < vw := by
    rcases Nat.eq_zero_or_pos vw with rfl | hp
    · exact absurd (BitVec.eq_nil v ▸ rfl : v.toNat = 0) h
    · exact hp
  have h1 : (1 : BitVec vw).toNat = 1 := by simp; omega
  rw [BitVec.toNat_and, BitVec.toNat_sub_of_le (by rw [BitVec.le_def, h1]; omega), h1]

/-- `is_pow2` and `log2` are about powers of two. -/
theorem isPow2_iff {vw : Nat} (v : TileValue vw) : isPow2 v = true ↔ ∃ k, v.toNat = 2 ^ k := by
  have h0 : v = 0 ↔ v.toNat = 0 := by rw [← BitVec.toNat_inj]; simp
  simp only [isPow2, Bool.and_eq_true, bne_iff_ne, ne_eq, beq_iff_eq, h0]
  constructor
  · rintro ⟨hv, e⟩
    have e := congrArg BitVec.toNat e
    rw [toNat_and_sub_one hv] at e
    exact (Nat.and_sub_one_eq_zero_iff_isPowerOfTwo hv).mp (by simpa using e)
  · rintro ⟨k, hk⟩
    have hv : v.toNat ≠ 0 := by rw [hk]; positivity
    refine ⟨hv, BitVec.eq_of_toNat_eq ?_⟩
    rw [toNat_and_sub_one hv, (Nat.and_sub_one_eq_zero_iff_isPowerOfTwo hv).mpr ⟨k, hk⟩]
    simp

theorem log2_eq {vw : Nat} {v : TileValue vw} {k : Nat} (h : v.toNat = 2 ^ k) : log2 v = k := by
  rw [log2, h, Nat.log2_two_pow]

/-- The check of spec/40_tile_codec.md R100 holds exactly of 0 and of 2^k with 1 ≤ k ≤ MAX_EXPONENT. -/
theorem validValue_iff (cfg : Config) {vw : Nat} (v : TileValue vw) :
    validValue cfg v = true ↔ v.toNat = 0 ∨ ∃ k, 1 ≤ k ∧ k ≤ cfg.maxExp ∧ v.toNat = 2 ^ k := by
  have h0 : v = 0 ↔ v.toNat = 0 := by rw [← BitVec.toNat_inj]; simp
  simp only [validValue, Bool.or_eq_true, beq_iff_eq, Bool.and_eq_true, decide_eq_true_eq, h0, isPow2_iff]
  constructor
  · rintro (h | ⟨⟨⟨k, hk⟩, h1⟩, h2⟩)
    · exact .inl h
    · rw [log2_eq hk] at h1 h2
      exact .inr ⟨k, h1, h2, hk⟩
  · rintro (h | ⟨k, h1, h2, hk⟩)
    · exact .inl h
    · exact .inr ⟨⟨⟨k, hk⟩, by rw [log2_eq hk]; exact h1⟩, by rw [log2_eq hk]; exact h2⟩

theorem validExp_iff (cfg : Config) (e : Exponent) : validExp cfg e = true ↔ e.toNat ≤ cfg.maxExp := by
  simp [validExp]

theorem firstFailing_eq_none_iff (check : Nat → Bool) :
    firstFailing check = none ↔ ∀ i, i < 16 → check i = true := by
  simp [firstFailing]

/-- The index reported is the lowest that fails. -/
theorem firstFailing_eq_some_iff (check : Nat → Bool) (i : Nat) :
    firstFailing check = some i ↔ i < 16 ∧ check i = false ∧ ∀ j, j < i → check j = true := by
  rw [firstFailing, List.find?_range_eq_some]
  simp only [List.mem_range]
  constructor
  · rintro ⟨h1, h2, h3⟩
    exact ⟨h2, by simpa using h1, fun j hj => by simpa using h3 j hj⟩
  · rintro ⟨h1, h2, h3⟩
    exact ⟨by simpa using h2, h1, fun j hj => by simpa using h3 j hj⟩

end Sys2Proof.Machine
end

