-- ==== Sys2Proof/Laws/PerInstr.lean ====
section
/-! SUPPORT. Per instruction: the op code the encoder drives falls under exactly the rows of spec/opcode_table.json that
carry the instruction's mnemonic, and one row covers it. -/

namespace Sys2Proof.Laws.TableRow

/-- The rows of the opcode table that cover the op code of the encoded instruction are one row, and that row has the
instruction's mnemonic. -/
def Statement (i : Instr) : Prop :=
  ∀ vw : Nat, ∃ row : OpRow, opcodeTable.filter (fun r => r.covers (Sys2Proof.encode vw i).op) = [row] ∧
    row.mnemonic = i.mnemonic

theorem rows_encode : opcodeTable.filter (fun r => r.covers opEncode) = [⟨"ENCODE", 0b000#3, 0b111#3⟩] := by
  decide
theorem rows_decode : opcodeTable.filter (fun r => r.covers opDecode) = [⟨"DECODE", 0b001#3, 0b111#3⟩] := by
  decide
theorem rows_pack : opcodeTable.filter (fun r => r.covers opPack) = [⟨"PACK", 0b010#3, 0b111#3⟩] := by
  decide
theorem rows_unpack : opcodeTable.filter (fun r => r.covers opUnpack) = [⟨"UNPACK", 0b011#3, 0b111#3⟩] := by
  decide
theorem rows_rotate : opcodeTable.filter (fun r => r.covers opRotate) = [⟨"ROTATE", 0b100#3, 0b111#3⟩] := by
  decide
theorem rows_reserved101 : opcodeTable.filter (fun r => r.covers opReserved101) = [⟨"RESERVED", 0b101#3, 0b111#3⟩] := by
  decide
theorem rows_reserved11x (low : Bool) : opcodeTable.filter (fun r => r.covers (opReserved11x low)) = [⟨"RESERVED", 0b110#3, 0b110#3⟩] := by
  cases low <;> decide

theorem encode (value : Nat) : Statement (.encode value) := fun _ => ⟨_, rows_encode, rfl⟩
theorem decode (exp : Exponent) : Statement (.decode exp) := fun _ => ⟨_, rows_decode, rfl⟩
theorem pack (grid : Grid) : Statement (.pack grid) := fun _ => ⟨_, rows_pack, rfl⟩
theorem unpack (packed : PackedOperand) : Statement (.unpack packed) := fun _ => ⟨_, rows_unpack, rfl⟩
theorem rotate (packed : PackedOperand) (turns : Turns) : Statement (.rotate packed turns) := fun _ => ⟨_, rows_rotate, rfl⟩
theorem reserved101 : Statement .reserved101 := fun _ => ⟨_, rows_reserved101, rfl⟩
theorem reserved11x (low : Bool) : Statement (.reserved11x low) := fun _ => ⟨_, rows_reserved11x low, rfl⟩

end Sys2Proof.Laws.TableRow
end

