-- ==== Sys2Proof/Laws/WireFormat.lean ====
section
/-! SUPPORT. The host's memory: every operation keeps the canonical form, and a read after a write of one byte. -/

namespace Sys2Proof.Machine

/-- Every listed address is above `a`. -/
def Memory.Above (a : Nat) (m : Memory) : Prop := ∀ c ∈ m, a < c.1

theorem Memory.wf_cons_iff (a : Host.Cell) (m : Memory) :
    Memory.wf (a :: m) = true ↔ Memory.Above a.1 m ∧ Memory.wf m = true := by
  induction m generalizing a with
  | nil => simp [Memory.wf, Memory.Above]
  | cons b m ih =>
    simp only [Memory.wf, Bool.and_eq_true, decide_eq_true_eq]
    constructor
    · rintro ⟨h1, h2⟩
      refine ⟨fun c hc => ?_, h2⟩
      rcases List.mem_cons.mp hc with rfl | hc
      · exact h1
      · exact Nat.lt_trans h1 (((ih b).mp h2).1 c hc)
    · rintro ⟨h1, h2⟩
      exact ⟨h1 b List.mem_cons_self, h2⟩

theorem Memory.above_writeByte {x a : Nat} {m : Memory} (b : Byte) (hx : x < a) (hm : Memory.Above x m) :
    Memory.Above x (m.writeByte a b) := by
  induction m with
  | nil => intro c hc; simp only [Memory.writeByte, List.mem_singleton] at hc; subst hc; exact hx
  | cons d m ih =>
    have hd : x < d.1 := hm d List.mem_cons_self
    have ht : Memory.Above x m := fun c hc => hm c (List.mem_cons_of_mem _ hc)
    intro c hc
    simp only [Memory.writeByte] at hc
    split at hc
    · rcases List.mem_cons.mp hc with rfl | hc
      · exact hx
      · exact hm c hc
    · split at hc
      · rcases List.mem_cons.mp hc with rfl | hc
        · exact hx
        · exact ht c hc
      · rcases List.mem_cons.mp hc with rfl | hc
        · exact hd
        · exact ih ht c hc

/-- Writing a byte keeps the canonical form. -/
theorem Memory.writeByte_wf {m : Memory} (a : Nat) (b : Byte) (h : m.wf = true) : (m.writeByte a b).wf = true := by
  induction m with
  | nil => rfl
  | cons d m ih =>
    obtain ⟨hd, hm⟩ := (Memory.wf_cons_iff d m).mp h
    simp only [Memory.writeByte]
    split
    · rename_i hlt
      refine (Memory.wf_cons_iff _ _).mpr ⟨fun c hc => ?_, h⟩
      rcases List.mem_cons.mp hc with rfl | hc
      · exact hlt
      · exact Nat.lt_trans hlt (hd c hc)
    · split
      · rename_i heq
        exact (Memory.wf_cons_iff _ _).mpr ⟨by simpa [heq] using hd, hm⟩
      · rename_i h1 h2
        exact (Memory.wf_cons_iff _ _).mpr ⟨Memory.above_writeByte b (by simp only; omega) hd, ih hm⟩

theorem Memory.readByte_writeByte_same (m : Memory) (a : Nat) (b : Byte) :
    (m.writeByte a b).readByte a = some b := by
  induction m with
  | nil => simp [Memory.writeByte, Memory.readByte]
  | cons d m ih =>
    simp only [Memory.writeByte]
    split
    · simp [Memory.readByte]
    · split
      · simp [Memory.readByte]
      · rename_i h1 h2
        simp [Memory.readByte, h2, ih]

theorem Memory.readByte_writeByte_other (m : Memory) {a x : Nat} (b : Byte) (h : x ≠ a) :
    (m.writeByte a b).readByte x = m.readByte x := by
  induction m with
  | nil => simp [Memory.writeByte, Memory.readByte, h]
  | cons d m ih =>
    simp only [Memory.writeByte]
    split
    · simp [Memory.readByte, h]
    · split
      · rename_i heq
        simp [Memory.readByte, ← heq, h]
      · simp only [Memory.readByte, ih]

theorem memWrite_wf {m : Memory} {w : Nat} (addr n : Nat) (v : BitVec w) (h : m.wf = true) :
    (memWrite m addr n v).wf = true := by
  induction n with
  | zero => exact h
  | succ n ih => exact Memory.writeByte_wf _ _ ih

/-- What a byte of memory holds after a write of n bytes, little-endian. -/
theorem readByte_memWrite (m : Memory) (addr n : Nat) {w : Nat} (v : BitVec w) (a : Nat) :
    (memWrite m addr n v).readByte a =
      if addr ≤ a ∧ a < addr + n then some (element 8 v (a - addr)) else m.readByte a := by
  induction n with
  | zero => simp [memWrite, show ¬(addr ≤ a ∧ a < addr) by omega]
  | succ n ih =>
    simp only [memWrite]
    by_cases ha : a = addr + n
    · subst ha
      rw [Memory.readByte_writeByte_same]
      simp
    · rw [Memory.readByte_writeByte_other _ _ ha, ih]
      by_cases h : addr ≤ a ∧ a < addr + n
      · simp [h, show a < addr + (n + 1) by omega]
      · rw [if_neg h, if_neg (by omega)]

end Sys2Proof.Machine
end

