-- ==== Sys2Proof/Tests/Slice0.lean ====
section
/-! SUPPORT. The model's own tests: the spec's words, worked examples and tables (spec/95_test_vectors.md), the
well-formedness smoke test, and for every statement with hypotheses a witness that meets them. -/

namespace Sys2Proof.Tests

open Sys2Proof.Machine Sys2Proof.Certificates

/-! Helpers. -/

/-- The outcome is a next state with a property. -/
def answers (o : Outcome) (f : State → Bool) : Bool :=
  match o with
  | .next t => f t
  | .fault _ => false
  | .refused _ => false

theorem next_of_answers {o : Outcome} {f : State → Bool} (h : answers o f = true) : ∃ t, o = .next t ∧ f t = true := by
  cases o with
  | next t => exact ⟨t, rfl, h⟩
  | fault _ => exact nomatch h
  | refused _ => exact nomatch h

/-- The outcome is this refusal. -/
def refuses (o : Outcome) (r : Refusal) : Bool :=
  match o with
  | .next _ => false
  | .fault _ => false
  | .refused r' => r == r'

/-- After reset, with these ports. -/
def presenting (rst valid : Bool) (r : Request 32) : State :=
  { State.reset with ports := { rst := rst, valid := valid, req := r } }

/-- After reset, with a response on the ports. -/
def responding (status : StatusCode) (p : Packed) : State :=
  { State.reset with rsp := { valid := true, op := opPack, status := status, cell := 0, exp := 0, value := 0,
                              grid := 0, packed := p } }

/-- The grid of spec/95_test_vectors.md V1, and its packed position. -/
def gridV1 : Grid := #v[16, 8, 8, 4, 4, 2, 0, 0, 2, 0, 0, 0, 0, 0, 2, 0]
def packedV1 : Packed := 0x00010000000000010000010202030304#128

/-- The grids P7 and P8 of spec/95_test_vectors.md 2.3. -/
def gridP7 : Grid := #v[0, 0, 0, 1, 0, 0, 0, 0, 0, 6, 0, 0, 0, 0, 0, 0]
def gridP8 : Grid := #v[2, 2, 2, 2, 2, 2, 2, 2, 2, 2, 2, 2, 2, 2, 2, 262144]

/-- The operand I of spec/95_test_vectors.md 2.5. -/
def packedI : Packed := 0x0f0e0d0c0b0a09080706050403020100#128

/-! Well-formedness: each check refuses an ill-formed term, and 2^VALUE_WIDTH − 1 fits (spec/30_encoding.md R65). -/

theorem test_wf_value_too_wide : (Instr.encode (2 ^ 32)).wf Config.standard = false := by decide +kernel
theorem test_wf_value_widest : (Instr.encode (2 ^ 32 - 1)).wf Config.standard = true := by decide +kernel
theorem test_wf_cell_too_wide :
    (Instr.pack #v[0, 0, 0, 0, 0, 0, 0, 0, 0, 0, 0, 0, 0, 0, 0, 2 ^ 32]).wf Config.standard = false := by
  decide +kernel
theorem test_standard_build_is_legal : Config.standard.Legal := by decide

/-! Decoding: the op codes of spec/30_encoding.md R61 with the port values of spec/95_test_vectors.md. -/

theorem test_decode_encode :
    decode (vw := 32) ⟨0b000#3, 0x00000800#32, 0, 0, .lit 0, 0⟩ = .encode 2048 := by decide +kernel
theorem test_decode_decode : decode (vw := 32) ⟨0b001#3, 0, 0x0B#8, 0, .lit 0, 0⟩ = .decode 11 := by decide +kernel
theorem test_decode_pack :
    decode (vw := 32) ⟨0b010#3, 0, 0, 0x0000000800000010#512, .lit 0, 0⟩ =
      .pack #v[16, 8, 0, 0, 0, 0, 0, 0, 0, 0, 0, 0, 0, 0, 0, 0] := by decide +kernel
theorem test_decode_pack_top_cell :
    decode (vw := 32) ⟨0b010#3, 0, 0, 2#512 <<< (32 * 15), .lit 0, 0⟩ =
      .pack #v[0, 0, 0, 0, 0, 0, 0, 0, 0, 0, 0, 0, 0, 0, 0, 2] := by decide +kernel
theorem test_decode_unpack :
    decode (vw := 32) ⟨0b011#3, 0, 0, 0, .lit packedV1, 0⟩ = .unpack (.lit packedV1) := by decide +kernel
theorem test_decode_rotate :
    decode (vw := 32) ⟨0b100#3, 0, 0, 0, .rsp, 0xFFFFFFFF#32⟩ = .rotate .rsp (BitVec.ofInt 32 (-1)) := by decide +kernel
theorem test_decode_reserved101 :
    decode (vw := 32) ⟨0b101#3, 5, 6, 7, .rsp, 8⟩ = .reserved101 := by decide +kernel
theorem test_decode_reserved110 :
    decode (vw := 32) ⟨0b110#3, 5, 6, 7, .rsp, 8⟩ = .reserved11x false := by decide +kernel
theorem test_decode_reserved111 :
    decode (vw := 32) ⟨0b111#3, 5, 6, 7, .rsp, 8⟩ = .reserved11x true := by decide +kernel
theorem test_every_op_has_one_row :
    ∀ op : OpCode, (opcodeTable.filter fun row => row.covers op).length = 1 := by decide

/-! Results: spec/95_test_vectors.md 2.1 to 2.6. -/

theorem test_encode_max :
    answers (exec (.encode 131072) State.reset) (fun t => t.rsp.status == 0 && t.rsp.exp == 17) = true := by
  decide +kernel
theorem test_encode_one :
    answers (exec (.encode 1) State.reset) (fun t => t.rsp.status == 1 && t.rsp.exp == 0) = true := by decide +kernel
theorem test_decode_max :
    answers (exec (.decode 17) State.reset) (fun t => t.rsp.status == 0 && t.rsp.value.toNat == 131072) = true := by
  decide +kernel
theorem test_decode_max_plus_one :
    answers (exec (.decode 18) State.reset) (fun t => t.rsp.status == 2 && t.rsp.value.toNat == 0) = true := by
  decide +kernel
theorem test_pack_v1 :
    answers (exec (.pack gridV1) State.reset) (fun t => t.rsp.status == 0 && t.rsp.packed == packedV1) = true := by
  decide +kernel
theorem test_pack_p7_lowest_cell :
    answers (exec (.pack gridP7) State.reset) (fun t => t.rsp.status == 1 && t.rsp.cell == 3) = true := by
  decide +kernel
theorem test_unpack_v1 :
    answers (exec (.unpack (.lit 0x02000000030000010301000004020100#128)) State.reset)
      (fun t => gridOfBus t.rsp.grid == #v[0, 2, 4, 16, 0, 0, 2, 8, 2, 0, 0, 8, 0, 0, 0, 4]) = true := by
  decide +kernel
theorem test_unpack_u7_lowest_byte :
    answers (exec (.unpack (.lit 0x00000000001300000000002000000000#128)) State.reset)
      (fun t => t.rsp.status == 2 && t.rsp.cell == 4) = true := by decide +kernel
theorem test_rotate_v1 :
    answers (exec (.rotate (.lit packedV1) 1) State.reset)
      (fun t => t.rsp.packed == 0x02000000030000010301000004020100#128) = true := by decide +kernel
theorem test_rotate_minus_one :
    answers (exec (.rotate (.lit packedI) (BitVec.ofInt 32 (-1))) State.reset)
      (fun t => t.rsp.status == 0 && t.rsp.packed == 0x0c0804000d0905010e0a06020f0b0703#128) = true := by
  decide +kernel
theorem test_reserved101 :
    answers (exec .reserved101 (responding 0 packedI))
      (fun t => t.rsp.op == 0b101#3 && t.rsp.status == 4 && t.rsp.packed == 0) = true := by decide +kernel
theorem test_reserved111 :
    answers (exec (.reserved11x true) State.reset) (fun t => t.rsp.op == 0b111#3 && t.rsp.status == 4) = true := by
  decide +kernel

/-- spec/95_test_vectors.md 2.7, edge 1: a request at an edge with `rst` = 1 is discarded. -/
theorem test_reset_discards_the_request :
    answers (step (presenting true true (encode 32 (.encode 4)))) (fun t => t.rsp == Rsp.zero _) = true := by
  decide +kernel
/-- Edge 3: without a request `rsp_valid` falls and the data holds. -/
theorem test_idle_holds_the_data :
    answers (step (responding 0 packedV1)) (fun t => !t.rsp.valid && t.rsp.packed == packedV1) = true := by
  decide +kernel

/-! Valid tiles of the standard build, for the witnesses. -/

theorem tile_of_check {v : Nat} (h : v < 2 ^ 32) (c : validValue Config.standard (BitVec.ofNat 32 v) = true) :
    ValidTile Config.standard v := by
  have e := (validValue_iff _ _).mp c
  rw [BitVec.toNat_ofNat, Nat.mod_eq_of_lt h] at e
  exact e

theorem not_tile_of_check {v : Nat} (h : v < 2 ^ 32) (c : validValue Config.standard (BitVec.ofNat 32 v) = false) :
    ¬ ValidTile Config.standard v := by
  intro t
  have : validValue Config.standard (BitVec.ofNat 32 v) = true := (validValue_iff _ _).mpr (by
    rw [BitVec.toNat_ofNat, Nat.mod_eq_of_lt h]; exact t)
  rw [this] at c
  exact nomatch c

theorem fits_of_check {g : Grid} (h : ∀ i : Fin 16, g[i] < 2 ^ 32) : GridFits Config.standard g := h

theorem valid_of_check {g : Grid} (h : ∀ i : Fin 16, g[i] < 2 ^ 32)
    (c : ∀ i : Fin 16, validValue Config.standard (BitVec.ofNat 32 g[i]) = true) : GridValid Config.standard g :=
  fun i => tile_of_check (h i) (c i)

theorem gridV1_fits : GridFits Config.standard gridV1 := fits_of_check (by decide +kernel)
theorem gridV1_valid : GridValid Config.standard gridV1 := valid_of_check (by decide +kernel) (by decide +kernel)

/-- ENCODE 4 presented after reset. -/
def encode4 : State := presenting false true (encode 32 (.encode 4))

/-! Witnesses: the hypotheses of each statement, met together. -/

/-- For ResetEdgeClearsEveryResponseRegister and the last clause of ResetStateHoldsTheResetValues. -/
theorem witness_reset_edge :
    (presenting true true (encode 32 (.encode 4))).ports.rst = true ∧
    ∃ t, step (presenting true true (encode 32 (.encode 4))) = .next t :=
  ⟨rfl, (next_of_answers (f := fun _ => true) (by decide +kernel)).imp fun _ h => h.1⟩

/-- For IdleEdgeDropsValidAndHoldsTheData. -/
theorem witness_idle_edge :
    (responding 0 packedV1).wasReset = true ∧ (responding 0 packedV1).ports.rst = false ∧
    (responding 0 packedV1).ports.valid = false := ⟨rfl, rfl, rfl⟩

/-- For StepRunsTheDecodedRequest, StepWritesOnlyTheResponseRegisters, ResponseExactlyAfterAnAcceptedRequest (an accepted
request) and EveryPresentedRequestIsAnswered with an operand the requester drives. -/
theorem witness_accepted_request :
    encode4.wasReset = true ∧ encode4.ports.rst = false ∧ encode4.ports.valid = true ∧
    Readable encode4 encode4.ports.req.packed ∧
    (∃ t, exec (decode encode4.ports.req) encode4 = .next t) ∧ (∃ t, step encode4 = .next t) :=
  ⟨rfl, rfl, rfl, fun h => (by injection h), (next_of_answers (f := fun _ => true) (by decide +kernel)).imp fun _ h => h.1,
    (next_of_answers (f := fun _ => true) (by decide +kernel)).imp fun _ h => h.1⟩

/-- ENCODE 4 presented right after reset, `req_packed` wired to `rsp_packed` with no response there. -/
def encode4Wired : State := presenting false true ⟨0b000#3, 4, 0, 0, .rsp, 0⟩

/-- For EveryPresentedRequestIsAnswered: an op that does not read `req_packed`, although its wire has no value. -/
theorem witness_unread_wire :
    encode4Wired.wasReset = true ∧ encode4Wired.ports.rst = false ∧ encode4Wired.ports.valid = true ∧
    (encode4Wired.ports.req.op = 0b011#3 ∨ encode4Wired.ports.req.op = 0b100#3 →
      Readable encode4Wired encode4Wired.ports.req.packed) ∧
    ¬ Readable encode4Wired encode4Wired.ports.req.packed :=
  ⟨rfl, rfl, rfl, fun h => absurd h (by decide), fun h => absurd (h rfl).2 (by decide)⟩

/-- ROTATE with `rsp_packed` fed back, right after reset. -/
def noResponse : State := presenting false true (encode 32 (.rotate .rsp 1))

/-- For the fault clause of StepRunsTheDecodedRequest. -/
theorem witness_faulting_request :
    noResponse.wasReset = true ∧ noResponse.ports.rst = false ∧ noResponse.ports.valid = true ∧
    exec (decode noResponse.ports.req) noResponse = .fault .readWithoutResponse := ⟨rfl, rfl, rfl, rfl⟩

/-- For the idle case of ResponseExactlyAfterAnAcceptedRequest and of StepWritesOnlyTheResponseRegisters. -/
theorem witness_step_idle :
    State.reset.wasReset = true ∧ ∃ t, step State.reset = .next t :=
  ⟨rfl, (next_of_answers (f := fun _ => true) (by decide +kernel)).imp fun _ h => h.1⟩

/-- A request with `rsp_packed` fed back, a response on the ports: for EveryPresentedRequestIsAnswered,
FeedbackUsesTheValueBeforeTheEdge and HeldRotateTurnsOncePerEdge. -/
def heldRotate : State :=
  { responding 0 packedI with ports := { rst := false, valid := true, req := encode 32 (.rotate .rsp 3) } }

theorem witness_feedback :
    heldRotate.wasReset = true ∧ heldRotate.rsp.valid = true ∧ heldRotate.script = [] ∧ heldRotate.ports.rst = false ∧
    heldRotate.ports.valid = true ∧ heldRotate.ports.req.op = 0b100#3 ∧ heldRotate.ports.req.packed = .rsp ∧
    heldRotate.ports.req.turns = 3 ∧ Readable heldRotate heldRotate.ports.req.packed :=
  ⟨rfl, rfl, rfl, rfl, rfl, rfl, rfl, rfl, fun _ => ⟨rfl, rfl⟩⟩

/-- After reset, the instruction answers under this op code, with status OK or with another. -/
def ok (i : Instr) (op : OpCode) : Bool := answers (exec i State.reset) fun t => t.rsp.op == op && t.rsp.status == 0
def bad (i : Instr) (op : OpCode) : Bool := answers (exec i State.reset) fun t => t.rsp.op == op && t.rsp.status != 0

/-- For EveryInstructionWritesOnlyTheResponse, NoPartialResultAndZeroFill and StatusesOfEachOperation: every instruction
answers, with status OK where it can and with its error where it can. -/
theorem witness_every_instruction_answers :
    ok (.encode 2) 0b000#3 = true ∧ bad (.encode 3) 0b000#3 = true ∧
    ok (.decode 1) 0b001#3 = true ∧ bad (.decode 255) 0b001#3 = true ∧
    ok (.pack gridV1) 0b010#3 = true ∧ bad (.pack gridP8) 0b010#3 = true ∧
    ok (.unpack (.lit packedV1)) 0b011#3 = true ∧ bad (.unpack (.lit 0xFF)) 0b011#3 = true ∧
    ok (.rotate (.lit packedI) 2) 0b100#3 = true ∧
    bad .reserved101 0b101#3 = true ∧ bad (.reserved11x false) 0b110#3 = true ∧
    bad (.reserved11x true) 0b111#3 = true := by decide +kernel

/-- Ports that present ENCODE 4 too, every other operand port different. -/
def otherEncode4 : Ports 32 := ⟨false, true, ⟨0b000#3, 4, 9, 1, .rsp, 7⟩⟩

/-- ROTATE of I by 5, and ports that present it too, the ports it does not name different. -/
def rotateI : State := presenting false true ⟨0b100#3, 4, 0, 0, .lit packedI, 5⟩
def otherRotateI : Ports 32 := ⟨false, true, ⟨0b100#3, 9, 9, 1, .lit packedI, 5⟩⟩

/-- For ResponseDependsOnlyOnTheNamedPorts: an ENCODE and a ROTATE whose other ports differ. -/
theorem witness_named_ports_encode :
    encode4.wasReset = true ∧ encode4.ports.rst = false ∧ encode4.ports.valid = true ∧ otherEncode4.rst = false ∧
    otherEncode4.valid = true ∧ otherEncode4.req.op = encode4.ports.req.op ∧
    otherEncode4.req.value = encode4.ports.req.value ∧ encode4.ports.req.op = 0b000#3 :=
  ⟨rfl, rfl, rfl, rfl, rfl, rfl, rfl, rfl⟩

theorem witness_named_ports_rotate :
    rotateI.wasReset = true ∧ rotateI.ports.rst = false ∧ rotateI.ports.valid = true ∧ otherRotateI.rst = false ∧
    otherRotateI.valid = true ∧ otherRotateI.req.op = rotateI.ports.req.op ∧ rotateI.ports.req.op = 0b100#3 ∧
    (∃ x, rotateI.ports.req.packed = .lit x ∧ otherRotateI.req.packed = .lit x) ∧
    otherRotateI.req.turns = rotateI.ports.req.turns :=
  ⟨rfl, rfl, rfl, rfl, rfl, rfl, rfl, ⟨packedI, rfl, rfl⟩, rfl⟩

/-- The same for DECODE, PACK, UNPACK and a reserved op: what two sets of ports that agree on the named one hold. -/
theorem witness_named_ports_others :
    (encode 32 (.decode 7)).exp = (⟨0b001#3, 9, 7, 1, .rsp, 7⟩ : Request 32).exp ∧
    (encode 32 (.pack gridV1)).grid = (⟨0b010#3, 9, 9, busOfGrid 32 gridV1, .rsp, 7⟩ : Request 32).grid ∧
    (∃ x, (encode 32 (.unpack (.lit packedV1))).packed = .lit x ∧
      (⟨0b011#3, 9, 9, 1, .lit packedV1, 7⟩ : Request 32).packed = .lit x) ∧
    (encode 32 .reserved101).op = (⟨0b101#3, 9, 9, 1, .rsp, 7⟩ : Request 32).op :=
  ⟨rfl, rfl, ⟨packedV1, rfl, rfl⟩, rfl⟩

/-- For RepeatedRequestGivesTheSameResponse. -/
theorem witness_repeated_request :
    (∀ n, Instr.rotate (.lit packedI) 1 ≠ .rotate .rsp n) ∧ Instr.rotate (.lit packedI) 1 ≠ .unpack .rsp ∧
    ∃ t, exec (.rotate (.lit packedI) 1) State.reset = .next t :=
  ⟨fun _ h => (by injection h with h; injection h), fun h => (by injection h), ⟨_, rfl⟩⟩

/-- For EdgeBeforeResetLeavesTheBlockUnreset, ReadBeforeResetFaults, FeedbackWithoutResponseFaults and the edge before
reset of StepWritesOnlyTheResponseRegisters. -/
theorem witness_power_up :
    (State.powerUp Config.standard).wasReset = false ∧ (State.powerUp Config.standard).ports.rst = false ∧
    ∃ t, step (State.powerUp Config.standard) = .next t := ⟨rfl, rfl, ⟨_, rfl⟩⟩

/-- For ReadNeedsAResponse and FeedbackWithoutResponseFaults: no response after reset; and each status code, the codes
never produced among them. -/
theorem witness_reads :
    State.reset.wasReset = true ∧ State.reset.rsp.valid = false ∧
    (responding 0 0).wasReset = true ∧ (responding 0 0).rsp.valid = true ∧ (responding 0 0).rsp.status = 0 ∧
    (responding 1 0).rsp.status = 1 ∧ (responding 2 0).rsp.status = 2 ∧ (responding 4 0).rsp.status = 4 ∧
    (responding 3 0).rsp.status = 3 ∧ 5 ≤ (responding 5 0).rsp.status.toNat ∧
    5 ≤ (responding 7 0).rsp.status.toNat := ⟨rfl, rfl, rfl, rfl, rfl, rfl, rfl, rfl, rfl, by decide, by decide⟩

/-- For EncodeAnswersTheExponentOrInvalidTile: 0; the lowest and the highest exponent; 1, 2^18 and the widest value. -/
theorem witness_encode :
    0 < 2 ^ State.reset.cfg.valueWidth ∧ 2 ^ 1 < 2 ^ State.reset.cfg.valueWidth ∧ 1 ≤ State.reset.cfg.maxExp ∧
    2 ^ 17 < 2 ^ State.reset.cfg.valueWidth ∧ 17 ≤ State.reset.cfg.maxExp ∧
    ¬ ValidTile State.reset.cfg 1 ∧ ¬ ValidTile State.reset.cfg (2 ^ 18) ∧
    2 ^ 32 - 1 < 2 ^ State.reset.cfg.valueWidth ∧ ¬ ValidTile State.reset.cfg (2 ^ 32 - 1) :=
  ⟨by decide +kernel, by decide +kernel, by decide +kernel, by decide +kernel, by decide +kernel,
    not_tile_of_check (by decide +kernel) (by decide +kernel),
    not_tile_of_check (by decide +kernel) (by decide +kernel), by decide +kernel,
    not_tile_of_check (by decide +kernel) (by decide +kernel)⟩

/-- For EncodeNeverAliases: two values accepted, also with one exponent. -/
theorem witness_encode_accepts :
    State.reset.cfg.Legal ∧
    (∃ t, exec (.encode 4) State.reset = .next t ∧ (t.rsp.status == 0 && t.rsp.exp == 2) = true) ∧
    (∃ t, exec (.encode 131072) State.reset = .next t ∧ (t.rsp.status == 0 && t.rsp.exp == 17) = true) :=
  ⟨by decide, next_of_answers (by decide +kernel), next_of_answers (by decide +kernel)⟩

/-- For DecodeAnswersTheValueOrInvalidExponent: 18 and 255; 0; 1 and 17; a legal build. -/
theorem witness_decode :
    State.reset.cfg.maxExp < (18 : Exponent).toNat ∧ State.reset.cfg.maxExp < (255 : Exponent).toNat ∧
    1 ≤ (1 : Exponent).toNat ∧ (1 : Exponent).toNat ≤ State.reset.cfg.maxExp ∧
    (17 : Exponent).toNat ≤ State.reset.cfg.maxExp ∧ State.reset.cfg.Legal := by decide

/-- For EncodeAndDecodeAreInverse: 0 and the largest tile; the largest exponent. -/
theorem witness_inverse :
    State.reset.cfg.Legal ∧ ValidTile State.reset.cfg 0 ∧ ValidTile State.reset.cfg 131072 ∧
    (17 : Exponent).toNat ≤ State.reset.cfg.maxExp :=
  ⟨by decide, .inl rfl, tile_of_check (by decide +kernel) (by decide +kernel), by decide⟩

/-- For PackAnswersTheExponentsOrTheLowestInvalidCell, UnpackAfterPackReturnsTheGrid, RotationCommutesWithTheCodec and
GridBusHoldsCellIAtItsBits: a valid grid in a legal build. -/
theorem witness_pack_valid :
    State.reset.cfg.Legal ∧ GridFits State.reset.cfg gridV1 ∧ GridValid State.reset.cfg gridV1 :=
  ⟨by decide, gridV1_fits, gridV1_valid⟩

theorem gridP7_check : ∀ j : Fin 16, gridP7[j] < 2 ^ 32 ∧
    (j < 3 → validValue Config.standard (BitVec.ofNat 32 gridP7[j]) = true) := by decide +kernel

theorem gridP8_check : ∀ j : Fin 16, gridP8[j] < 2 ^ 32 ∧
    (j < 15 → validValue Config.standard (BitVec.ofNat 32 gridP8[j]) = true) := by decide +kernel

/-- For the error clause of PackAnswersTheExponentsOrTheLowestInvalidCell: cells 3 and 9 invalid; only cell 15 invalid;
cell 0 invalid. -/
theorem witness_pack_invalid :
    (GridFits State.reset.cfg gridP7 ∧ ¬ ValidTile State.reset.cfg gridP7[(3 : Fin 16)] ∧
      ∀ j : Fin 16, j < 3 → ValidTile State.reset.cfg gridP7[j]) ∧
    (GridFits State.reset.cfg gridP8 ∧ ¬ ValidTile State.reset.cfg gridP8[(15 : Fin 16)] ∧
      ∀ j : Fin 16, j < 15 → ValidTile State.reset.cfg gridP8[j]) ∧
    (GridFits State.reset.cfg (Vector.replicate 16 3) ∧
      ¬ ValidTile State.reset.cfg (Vector.replicate 16 3)[(0 : Fin 16)] ∧
      ∀ j : Fin 16, j < 0 → ValidTile State.reset.cfg (Vector.replicate 16 3)[j]) := by
  refine ⟨⟨fits_of_check (by decide +kernel), not_tile_of_check (by decide +kernel) (by decide +kernel), fun j h => ?_⟩,
    ⟨fits_of_check (by decide +kernel), not_tile_of_check (by decide +kernel) (by decide +kernel), fun j h => ?_⟩,
    ⟨fits_of_check (by decide +kernel), not_tile_of_check (by decide +kernel) (by decide +kernel),
      fun j h => absurd h (Fin.not_lt_zero j)⟩⟩
  · exact tile_of_check (gridP7_check j).1 ((gridP7_check j).2 h)
  · exact tile_of_check (gridP8_check j).1 ((gridP8_check j).2 h)

/-- For PackProducesValidExponentsOnly and PackTreatsEachCellAlone: two grids packed OK that agree in cell 0. -/
theorem witness_pack_ok :
    State.reset.cfg.Legal ∧ gridV1[(0 : Fin 16)] = (Vector.replicate 16 16 : Grid)[(0 : Fin 16)] ∧
    (∃ t, exec (.pack gridV1) State.reset = .next t ∧ (t.rsp.status == 0) = true) ∧
    (∃ t, exec (.pack (Vector.replicate 16 16)) State.reset = .next t ∧ (t.rsp.status == 0) = true) :=
  ⟨by decide, by decide +kernel, next_of_answers (by decide +kernel), next_of_answers (by decide +kernel)⟩

/-- For UnpackAnswersTheValuesOrTheLowestInvalidByte and PackAfterUnpackReturnsThePosition: every byte at the bound 17;
bytes 4 and 10 too large; only byte 15; byte 0. -/
theorem witness_unpack :
    State.reset.cfg.Legal ∧
    (∀ i : Fin 16, (byteAt 0x11111111111111111111111111111111#128 i).toNat ≤ State.reset.cfg.maxExp) ∧
    (State.reset.cfg.maxExp < (byteAt 0x00000000001300000000002000000000#128 (4 : Fin 16)).toNat ∧
      ∀ j : Fin 16, j < 4 → (byteAt 0x00000000001300000000002000000000#128 j).toNat ≤ State.reset.cfg.maxExp) ∧
    (State.reset.cfg.maxExp < (byteAt 0x12000000000000000000000000000000#128 (15 : Fin 16)).toNat ∧
      ∀ j : Fin 16, j < 15 → (byteAt 0x12000000000000000000000000000000#128 j).toNat ≤ State.reset.cfg.maxExp) ∧
    State.reset.cfg.maxExp < (byteAt 0xFF#128 (0 : Fin 16)).toNat := by decide +kernel

/-- For StepKeepsTheResponseInvariant: a state that meets the invariant, with a PACK presented. -/
theorem witness_invariant :
    (presenting false true (encode 32 (.pack gridV1))).Inv ∧
    ∃ t, step (presenting false true (encode 32 (.pack gridV1))) = .next t :=
  ⟨fun _ => by constructor <;> simp [presenting, State.reset, State.resetOf, Rsp.zero, opPack, opEncode, opDecode, opUnpack],
    (next_of_answers (f := fun _ => true) (by decide +kernel)).imp fun _ h => h.1⟩

/-- For OpcodeMapIsTheSpecs and EncodeOfDecodeKeepsTheNamedPorts: a request for each op value. -/
theorem witness_ops : ∀ op : OpCode, (Request.ofOp 32 op).op = op := fun _ => rfl

/-- For DecodeOfEncodeIsTheInstruction: each constructor with operands at a bound. -/
theorem witness_well_formed :
    (Instr.encode (2 ^ 32 - 1)).wf Config.standard = true ∧ (Instr.decode 255).wf Config.standard = true ∧
    (Instr.pack (Vector.replicate 16 (2 ^ 32 - 1))).wf Config.standard = true ∧
    (Instr.unpack .rsp).wf Config.standard = true ∧ (Instr.rotate .rsp 0xFFFFFFFF).wf Config.standard = true ∧
    Instr.reserved101.wf Config.standard = true ∧ (Instr.reserved11x true).wf Config.standard = true := by
  decide +kernel

/-- For GridBusHoldsCellIAtItsBits: every cell at the widest value. -/
theorem witness_grid_bus : GridFits Config.standard (Vector.replicate 16 (2 ^ 32 - 1)) :=
  fits_of_check (by decide +kernel)

/-- For OperandWiderThanItsPortIsRefused and RequesterNeverTruncates: the first value and the first grid too wide, the
last exponent that fits and the first that does not. -/
theorem witness_too_wide :
    2 ^ State.reset.cfg.valueWidth ≤ 2 ^ 32 ∧ 2 ^ 32 - 1 < 2 ^ State.reset.cfg.valueWidth ∧
    ¬ GridFits State.reset.cfg (Vector.replicate 16 (2 ^ 32)) ∧
    refuses (exec (.encode (2 ^ 32)) State.reset) .operandWiderThanPort = true ∧
    (∀ i : Fin 16, (Vector.replicate 16 255 : Grid)[i] < 256) ∧
    (∃ i : Fin 16, 256 ≤ (Vector.replicate 16 256 : Grid)[i]) :=
  ⟨by decide +kernel, by decide +kernel, fun h => absurd (h 0) (by decide +kernel), by decide +kernel,
    by decide +kernel, ⟨0, by decide +kernel⟩⟩

/-- For FetchWordIsRunByTheNextStep: the last word, and the standard build. -/
theorem witness_fetch_word : 7 < 8 ∧ State.reset.cfg = Config.standard := ⟨by decide, rfl⟩

/-- For WireFormatStoresByteIAtBasePlusI: an address below and one above the sixteen bytes; and the bytes themselves. -/
theorem witness_wire_format :
    (3 < 4 ∨ 4 + 16 ≤ 3) ∧ (20 < 4 ∨ 4 + 16 ≤ 20) ∧
    (storePacked [(3, 0xAA#8)] 4 packedV1).readByte 4 = some 4#8 ∧
    (storePacked [(3, 0xAA#8)] 4 packedV1).readByte 3 = some 0xAA#8 := by decide +kernel

end Sys2Proof.Tests
end

section
/-! The default build and the reset state that stands on it. -/

namespace Sys2Proof

/-- spec/00_scope.md R7 and R9 at their defaults: 1 ≤ 17 ≤ min(255, 31) and 32 ≥ 18. -/
theorem Config.standard_legal : Config.standard.Legal := by decide

end Sys2Proof

namespace Sys2Proof.Machine

/-- The constants of the build are those the instance was built with. -/
@[simp] theorem State.resetOf_cfg (cfg : Config) : (State.resetOf cfg).cfg = cfg := rfl

@[simp] theorem State.reset_cfg : State.reset.cfg = Config.standard := State.resetOf_cfg _

/-- Settles O53: `State.reset` is built on `Config.standard`, whose parameters are 17 and 32, and that build is legal. -/
theorem resetStateIsOfTheDefaultBuild : Obligations.ResetStateIsOfTheDefaultBuild := by
  have same_build : State.reset = State.resetOf { maxExp := 17, valueWidth := 32 } := rfl
  have legal : State.reset.cfg.Legal := State.reset_cfg ▸ Config.standard_legal
  exact ⟨same_build, legal⟩

end Sys2Proof.Machine
end

section
/-! Layout of the grid bus: a grid that fits is laid out and read back whole, and what is read fits. -/

namespace Sys2Proof.Machine

open Sys2Proof.Certificates

theorem gridFits_iff {cfg : Config} {g : Grid} :
    GridFits cfg g ↔ ∀ i, i < 16 → gridAt g i < 2 ^ cfg.valueWidth := by
  constructor
  · intro h i hi
    rw [gridAt_eq g hi]
    exact h ⟨i, hi⟩
  · intro h i
    have := h i i.isLt
    rwa [gridAt_eq g i.isLt] at this

/-- A cell that fits its port is carried whole. -/
theorem toNat_cell_busOfGrid {vw i : Nat} {g : Grid} (hi : i < 16) (h : gridAt g i < 2 ^ vw) :
    (cell (busOfGrid vw g) i).toNat = gridAt g i := by
  rw [cell_busOfGrid g hi, BitVec.toNat_ofNat, Nat.mod_eq_of_lt h]

theorem gridOfBus_busOfGrid {vw : Nat} {g : Grid} (h : ∀ i, i < 16 → gridAt g i < 2 ^ vw) :
    gridOfBus (busOfGrid vw g) = g :=
  grid_ext fun i hi => by rw [gridAt_gridOfBus _ hi, toNat_cell_busOfGrid hi (h i hi)]

/-- What a grid bus carries fits the ports. -/
theorem gridOfBus_all_fitsPort {cfg : Config} (b : GridBus cfg.valueWidth) :
    (gridOfBus b).toList.all (fitsPort cfg) = true :=
  (all_fitsPort_iff cfg _).mpr fun i hi => by rw [gridAt_gridOfBus b hi]; exact (cell b i).isLt

/-- Settles O47, by the law of an element of an assembled vector. -/
theorem gridBusHoldsCellIAtItsBits : Obligations.GridBusHoldsCellIAtItsBits := by
  intro cfg g hg
  have fits := gridFits_iff.mp hg
  refine ⟨fun i => ?_, gridOfBus_busOfGrid fits⟩
  calc (cellAt (busOfGrid cfg.valueWidth g) i).toNat
      = gridAt g i := toNat_cell_busOfGrid i.isLt (fits i i.isLt)
    _ = g[i] := gridAt_eq g i.isLt

end Sys2Proof.Machine
end

section
/-! Reads of the response registers: their three cases, and the packed operand that is such a read. -/

namespace Sys2Proof.Machine

open Sys2Proof.Certificates

section Reads
variable {s : State} {α : Type} (register : α)

theorem readData_before_reset (hw : s.wasReset = false) : s.readData register = .error .readBeforeReset := by
  simp [State.readData, hw]

theorem readData_without_response (hw : s.wasReset = true) (hv : s.rsp.valid = false) :
    s.readData register = .error .readWithoutResponse := by
  simp [State.readData, hw, hv]

theorem readData_with_response (hw : s.wasReset = true) (hv : s.rsp.valid = true) :
    s.readData register = .ok register := (readData_ok_iff s _ _).mpr ⟨hw, hv, rfl⟩

end Reads

theorem readStatus_of_readData_error {s : State} {f : Fault} (h : s.readData s.rsp.status = .error f) :
    s.readStatus = .error f := by
  simp only [State.readStatus, h]

/-- With a response on the ports the status read is the name of its code, or the fault of I7. -/
theorem readStatus_with_response {s : State} (hw : s.wasReset = true) (hv : s.rsp.valid = true) :
    s.readStatus = (producedStatus s.rsp.status).elim (.error .statusNeverProduced) .ok := by
  simp only [State.readStatus, readData_with_response _ hw hv]
  cases producedStatus s.rsp.status <;> rfl

theorem producedStatus_eq_none {c : StatusCode} (h : c = 3 ∨ 5 ≤ c.toNat) : producedStatus c = none := by
  revert c; decide

/-- Settles O13: every read is `readData` of its register. -/
theorem readNeedsAResponse : Obligations.ReadNeedsAResponse := by
  intro s hw
  refine ⟨by simp [State.readValid, hw], fun hv => ?_, fun hv => ?_⟩
  · have fails {α : Type} (register : α) := readData_without_response register hw hv
    exact ⟨fails _, readStatus_of_readData_error (fails _), fails _, fails _, fails _, fails _, fails _⟩
  · have answers {α : Type} (register : α) := readData_with_response register hw hv
    rw [readStatus_with_response hw hv]
    exact ⟨answers _, answers _, answers _, answers _, answers _, answers _,
      fun ok => by rw [ok]; rfl, fun invalid_tile => by rw [invalid_tile]; rfl,
      fun invalid_exponent => by rw [invalid_exponent]; rfl, fun illegal_op => by rw [illegal_op]; rfl,
      fun never => by rw [producedStatus_eq_none never]; rfl⟩

/-- A packed operand has a value exactly if it is readable. -/
theorem readable_iff {s : State} {operand : PackedOperand} :
    Readable s operand ↔ ∃ p, packedOperand s operand = .ok p := by
  cases operand with
  | lit p => exact ⟨fun _ => ⟨p, rfl⟩, fun _ h => nomatch h⟩
  | rsp => simp [Readable, State.readPacked, readData_ok_iff]

theorem readable_lit (s : State) (p : Packed) : Readable s (.lit p) := readable_iff.mpr ⟨p, rfl⟩

end Sys2Proof.Machine
end

section
/-! What UNPACK and ROTATE do with their packed operand, and the fed-back one. -/

namespace Sys2Proof.Machine

section PackedOperand
variable {s : State} {a b : PackedOperand}

theorem exec_unpack_congr (h : packedOperand s a = packedOperand s b) :
    exec (.unpack a) s = exec (.unpack b) s := by
  simp only [exec, execUnpack, h]

theorem exec_rotate_congr (h : packedOperand s a = packedOperand s b) (n : Turns) :
    exec (.rotate a n) s = exec (.rotate b n) s := by
  simp only [exec, execRotate, h]

/-- A packed operand's read ends in a value or a fault, never in a refusal. -/
theorem orFault_ne_refused {α : Type} (x : Except Fault α) {go : α → Outcome} {r : Refusal}
    (h : ∀ a, go a ≠ .refused r) : orFault x go ≠ .refused r := by
  cases x with
  | ok a => exact h a
  | error f => exact nofun

theorem exec_unpack_fault {f : Fault} (h : packedOperand s a = .error f) : exec (.unpack a) s = .fault f := by
  simp only [exec, execUnpack, h, orFault_error]

theorem exec_rotate_fault {f : Fault} (h : packedOperand s a = .error f) (n : Turns) :
    exec (.rotate a n) s = .fault f := by
  simp only [exec, execRotate, h, orFault_error]

end PackedOperand

/-- Settles O31: the read of the register answers what it holds. -/
theorem feedbackUsesTheValueBeforeTheEdge : Obligations.FeedbackUsesTheValueBeforeTheEdge := by
  intro s hw hv
  have same : packedOperand s .rsp = packedOperand s (.lit s.rsp.packed) := readData_with_response _ hw hv
  exact ⟨exec_unpack_congr same, exec_rotate_congr same⟩

/-- Settles O32: the fault of the operand's read is the instruction's. -/
theorem feedbackWithoutResponseFaults : Obligations.FeedbackWithoutResponseFaults := by
  refine fun s => ⟨fun hw hv => ?_, fun hw => ?_⟩
  · have fails : packedOperand s .rsp = .error .readWithoutResponse := readData_without_response _ hw hv
    exact ⟨exec_unpack_fault fails, exec_rotate_fault fails⟩
  · have fails : packedOperand s .rsp = .error .readBeforeReset := readData_before_reset _ hw
    exact ⟨exec_unpack_fault fails, exec_rotate_fault fails⟩

end Sys2Proof.Machine
end

section
/-! The decoder, one equation per op code, and what a decoded instruction has: the op code of its request, operands that
fit, and no dependence on a port its operation does not name. -/

namespace Sys2Proof

open Machine (gridOfBus gridOfBus_all_fitsPort)

/-- The eight op codes are those of the seven constructors. -/
theorem op_cases (op : OpCode) :
    op = opEncode ∨ op = opDecode ∨ op = opPack ∨ op = opUnpack ∨ op = opRotate ∨ op = opReserved101 ∨
      ∃ low, op = opReserved11x low := by
  revert op; decide

section Decode
variable {vw : Nat} {r : Request vw}

theorem decode_of_opEncode (h : r.op = opEncode) : decode r = .encode r.value.toNat := if_pos h

theorem decode_of_opDecode (h : r.op = opDecode) : decode r = .decode r.exp := by
  simp [decode, h, opDecode, opEncode]

theorem decode_of_opPack (h : r.op = opPack) : decode r = .pack (gridOfBus r.grid) := by
  simp [decode, h, opPack, opDecode, opEncode]

theorem decode_of_opUnpack (h : r.op = opUnpack) : decode r = .unpack r.packed := by
  simp [decode, h, opUnpack, opPack, opDecode, opEncode]

theorem decode_of_opRotate (h : r.op = opRotate) : decode r = .rotate r.packed r.turns := by
  simp [decode, h, opRotate, opUnpack, opPack, opDecode, opEncode]

theorem decode_of_opReserved101 (h : r.op = opReserved101) : decode r = .reserved101 := by
  simp [decode, h, opReserved101, opRotate, opUnpack, opPack, opDecode, opEncode]

theorem decode_of_opReserved11x {low : Bool} (h : r.op = opReserved11x low) : decode r = .reserved11x low := by
  cases low <;>
    simp [decode, h, opReserved11x, opReserved101, opRotate, opUnpack, opPack, opDecode, opEncode]

end Decode

theorem decode_op {vw : Nat} (r : Request vw) : (decode r).op = r.op := by
  rcases op_cases r.op with h | h | h | h | h | h | ⟨low, h⟩
  · rw [decode_of_opEncode h, h]; rfl
  · rw [decode_of_opDecode h, h]; rfl
  · rw [decode_of_opPack h, h]; rfl
  · rw [decode_of_opUnpack h, h]; rfl
  · rw [decode_of_opRotate h, h]; rfl
  · rw [decode_of_opReserved101 h, h]; rfl
  · rw [decode_of_opReserved11x h, h]; rfl

/-- What is decoded from the ports fits the ports. -/
theorem decode_wf {cfg : Config} (r : Request cfg.valueWidth) : (decode r).wf cfg = true := by
  rcases op_cases r.op with h | h | h | h | h | h | ⟨low, h⟩
  · rw [decode_of_opEncode h]; exact decide_eq_true r.value.isLt
  · rw [decode_of_opDecode h]; rfl
  · rw [decode_of_opPack h]; exact gridOfBus_all_fitsPort r.grid
  · rw [decode_of_opUnpack h]; rfl
  · rw [decode_of_opRotate h]; rfl
  · rw [decode_of_opReserved101 h]; rfl
  · rw [decode_of_opReserved11x h]; rfl

/-- Two requests with one op that agree on the ports it names present one instruction. -/
theorem decode_congr {vw : Nat} {a b : Request vw} (hop : b.op = a.op)
    (hvalue : a.op = opEncode → b.value = a.value) (hexp : a.op = opDecode → b.exp = a.exp)
    (hgrid : a.op = opPack → b.grid = a.grid) (hunpack : a.op = opUnpack → b.packed = a.packed)
    (hrotate : a.op = opRotate → b.packed = a.packed ∧ b.turns = a.turns) : decode b = decode a := by
  rcases op_cases a.op with h | h | h | h | h | h | ⟨low, h⟩
  · rw [decode_of_opEncode h, decode_of_opEncode (hop.trans h), hvalue h]
  · rw [decode_of_opDecode h, decode_of_opDecode (hop.trans h), hexp h]
  · rw [decode_of_opPack h, decode_of_opPack (hop.trans h), hgrid h]
  · rw [decode_of_opUnpack h, decode_of_opUnpack (hop.trans h), hunpack h]
  · obtain ⟨hpacked, hturns⟩ := hrotate h
    rw [decode_of_opRotate h, decode_of_opRotate (hop.trans h), hpacked, hturns]
  · rw [decode_of_opReserved101 h, decode_of_opReserved101 (hop.trans h)]
  · rw [decode_of_opReserved11x h, decode_of_opReserved11x (hop.trans h)]

/-- The instruction's packed operand, where it has one, has the property. -/
def Instr.AllPacked (P : PackedOperand → Prop) : Instr → Prop
  | .unpack packed => P packed
  | .rotate packed _ => P packed
  | _ => True

theorem Instr.AllPacked.mono {P Q : PackedOperand → Prop} (hPQ : ∀ o, P o → Q o) {i : Instr} (h : i.AllPacked P) :
    i.AllPacked Q := by
  cases i with
  | unpack packed => exact hPQ _ h
  | rotate packed turns => exact hPQ _ h
  | _ => trivial

/-- Only UNPACK and ROTATE take their operand from `req_packed`. -/
theorem allPacked_decode {P : PackedOperand → Prop} {vw : Nat} {r : Request vw}
    (h : r.op = opUnpack ∨ r.op = opRotate → P r.packed) : (decode r).AllPacked P := by
  rcases op_cases r.op with e | e | e | e | e | e | ⟨low, e⟩
  · rw [decode_of_opEncode e]; trivial
  · rw [decode_of_opDecode e]; trivial
  · rw [decode_of_opPack e]; trivial
  · rw [decode_of_opUnpack e]; exact h (.inl e)
  · rw [decode_of_opRotate e]; exact h (.inr e)
  · rw [decode_of_opReserved101 e]; trivial
  · rw [decode_of_opReserved11x e]; trivial

end Sys2Proof
end

section
/-! When an instruction answers: the converse of `exec_next`, and which instructions have a result. -/

namespace Sys2Proof.Machine

open Sys2Proof.Certificates

/-- An instruction with a result accepts the request with it. -/
theorem ResultOf.exec_eq {s : State} {i : Instr} {out : Out s.cfg.valueWidth} (h : ResultOf s i out) :
    exec i s = .next (s.accept i.op out) := by
  cases h with
  | encode h => simp only [exec, execEncode, h, orRefuse_ok, Instr.op]
  | decode e => rfl
  | pack h => simp only [exec, execPack, h, orRefuse_ok, Instr.op]
  | unpack h => simp only [exec, execUnpack, h, orFault_ok, Instr.op]
  | rotate turns h => simp only [exec, execRotate, h, orFault_ok, Instr.op]
  | reserved101 => rfl
  | reserved11x low => rfl

/-- A well-formed instruction whose packed operand, where it has one, is readable has a result. -/
theorem exists_resultOf {s : State} {i : Instr} (hwf : i.wf s.cfg = true) (hread : i.AllPacked (Readable s)) :
    ∃ out, ResultOf s i out := by
  cases i with
  | encode value => exact ⟨_, .encode (valueOperand_fits (of_decide_eq_true hwf))⟩
  | decode e => exact ⟨_, .decode e⟩
  | pack grid => exact ⟨_, .pack (gridOperand_fits hwf)⟩
  | unpack packed => exact (readable_iff.mp hread).elim fun _ hp => ⟨_, .unpack hp⟩
  | rotate packed turns => exact (readable_iff.mp hread).elim fun _ hp => ⟨_, .rotate turns hp⟩
  | reserved101 => exact ⟨_, .reserved101⟩
  | reserved11x low => exact ⟨_, .reserved11x low⟩

/-- A well-formed instruction is not refused: an operand read that has no value is a fault. -/
theorem exec_ne_refused {s : State} {i : Instr} (hwf : i.wf s.cfg = true) (r : Refusal) :
    exec i s ≠ .refused r := by
  have answered (hread : i.AllPacked (Readable s)) : exec i s ≠ .refused r := by
    obtain ⟨out, h⟩ := exists_resultOf hwf hread
    rw [h.exec_eq]
    exact nofun
  cases i with
  | unpack packed => exact orFault_ne_refused _ fun _ => nofun
  | rotate packed turns => exact orFault_ne_refused _ fun _ => nofun
  | _ => exact answered trivial

/-- The result of an instruction that reads no response register is that of every state of the same build. -/
theorem ResultOf.of_same_build {s : State} {i : Instr} {out : Out s.cfg.valueWidth} (h : ResultOf s i out)
    (driven : i.AllPacked (· ≠ .rsp)) (w : Bool) (r : Rsp s.cfg.valueWidth) (p : Ports s.cfg.valueWidth)
    (script : List (Ports s.cfg.valueWidth)) (d : Nat) :
    ResultOf { s with wasReset := w, rsp := r, ports := p, script := script, draws := d } i out := by
  cases h with
  | encode h => exact .encode h
  | decode e => exact .decode e
  | pack h => exact .pack h
  | @unpack packed _ h =>
    cases packed with
    | lit q => exact .unpack h
    | rsp => exact absurd rfl driven
  | @rotate packed _ turns h =>
    cases packed with
    | lit q => exact .rotate turns h
    | rsp => exact absurd rfl driven
  | reserved101 => exact .reserved101
  | reserved11x low => exact .reserved11x low

/-- Settles O6: an answer is `accept` of the op code. -/
theorem everyInstructionWritesOnlyTheResponse : Obligations.EveryInstructionWritesOnlyTheResponse := by
  intro i s t h
  obtain ⟨out, -, rfl⟩ := exec_next h
  exact ⟨out.status, out.cell, out.exp, out.value, out.grid, out.packed, rfl⟩

end Sys2Proof.Machine
end

section
/-! The branches of an edge (spec/10_state.md R30), each as an equation. -/

namespace Sys2Proof.Machine

open Sys2Proof.Certificates

section Edge
variable {s : State}

theorem step_of_reset (hr : s.ports.rst = true) : step s = .next s.resetEdge.driveNext := by
  simp [step, clockEdge, hr, thenDrive]

theorem step_of_request (hw : s.wasReset = true) (hr : s.ports.rst = false) (hv : s.ports.valid = true) :
    step s = thenDrive (exec s.presented s) := by
  simp [step, clockEdge, hr, hw, hv]

theorem step_of_idle (hw : s.wasReset = true) (hr : s.ports.rst = false) (hv : s.ports.valid = false) :
    step s = .next s.idleEdge.driveNext := by
  simp [step, clockEdge, hr, hw, hv, thenDrive]

/-- A request with a result is answered with it. -/
theorem step_of_resultOf {i : Instr} {out : Out s.cfg.valueWidth} (hw : s.wasReset = true)
    (hr : s.ports.rst = false) (hv : s.ports.valid = true) (hi : s.presented = i) (h : ResultOf s i out) :
    step s = .next (s.accept i.op out).driveNext := by
  rw [step_of_request hw hr hv, hi, h.exec_eq]
  rfl

end Edge

/-- Settles O5: each of the four branches of an edge writes the response registers, the reset mark or the counter. -/
theorem stepWritesOnlyTheResponseRegisters : Obligations.StepWritesOnlyTheResponseRegisters := by
  intro s t h
  rcases step_next h with ⟨-, rfl⟩ | ⟨-, hw, -, u, hu, rfl⟩ | ⟨-, hw, -, rfl⟩ | ⟨-, hw, rfl⟩
  · exact ⟨_, true, s.draws, rfl, fun _ => ⟨rfl, rfl⟩⟩
  · obtain ⟨out, -, rfl⟩ := exec_next hu
    exact ⟨_, s.wasReset, s.draws, rfl, fun _ => ⟨hw, rfl⟩⟩
  · exact ⟨_, s.wasReset, s.draws, rfl, fun _ => ⟨hw, rfl⟩⟩
  · exact ⟨_, s.wasReset, s.draws + 1, rfl, fun reset => absurd (hw.symm.trans reset) Bool.false_ne_true⟩

/-- Settles O8: the decoded request has a result, which is answered under its op code. -/
theorem everyPresentedRequestIsAnswered : Obligations.EveryPresentedRequestIsAnswered := by
  refine fun s => ⟨rfl, fun hw hr hv hread => ?_⟩
  obtain ⟨out, h⟩ := exists_resultOf (decode_wf s.ports.req) (allPacked_decode hread)
  exact ⟨_, step_of_resultOf hw hr hv rfl h, rfl, decode_op s.ports.req⟩

/-- Settles O9: both requests present one instruction, which reads no response register, so its result is that of both
states. -/
theorem responseDependsOnlyOnTheNamedPorts : Obligations.ResponseDependsOnlyOnTheNamedPorts := by
  intro s r p script d hw hr hv hr' hv' hop hvalue hexp hgrid hunpack hrotate
  have presented : decode p.req = decode s.ports.req := by
    refine decode_congr hop hvalue hexp hgrid (fun h => ?_) (fun h => ?_)
    · obtain ⟨x, hs, hp⟩ := hunpack h
      rw [hs, hp]
    · obtain ⟨⟨x, hs, hp⟩, hturns⟩ := hrotate h
      exact ⟨by rw [hs, hp], hturns⟩
  have driven : s.presented.AllPacked (· ≠ .rsp) := by
    refine allPacked_decode fun reads => ?_
    obtain ⟨x, hs, -⟩ : ∃ x, s.ports.req.packed = .lit x ∧ p.req.packed = .lit x :=
      reads.elim hunpack fun h => (hrotate h).1
    exact hs ▸ nofun
  have readable : s.presented.AllPacked (Readable s) := driven.mono fun _ h fed_back => absurd fed_back h
  obtain ⟨out, h⟩ := exists_resultOf (decode_wf s.ports.req) readable
  have h' := h.of_same_build driven s.wasReset r p script d
  exact ⟨_, _, _, _, _, step_of_resultOf hw hr hv rfl h, step_of_resultOf hw hr' hv' presented h'⟩

/-- Settles O2, by the reset branch of an edge. -/
theorem resetStateHoldsTheResetValues : Obligations.ResetStateHoldsTheResetValues := by
  refine ⟨fun cfg => ⟨rfl, rfl⟩, rfl, fun _ => rfl, fun s t hr h => ?_⟩
  rw [step_of_reset hr] at h
  injection h with h
  rw [← h, driveNext_cfg, resetEdge_cfg]

/-- Settles O3, by the idle branch of an edge. -/
theorem idleEdgeDropsValidAndHoldsTheData : Obligations.IdleEdgeDropsValidAndHoldsTheData :=
  fun _ hw hr hv => step_of_idle hw hr hv

/-- Settles O4: the outcome of `exec` is the edge's, and a decoded instruction fits its ports, so is not refused. -/
theorem stepRunsTheDecodedRequest : Obligations.StepRunsTheDecodedRequest := by
  intro s hw hr hv
  rw [step_of_request hw hr hv]
  refine ⟨fun t h => ?_, fun f h => ?_, exec_ne_refused (decode_wf s.ports.req)⟩
  · rw [State.presented, h]; rfl
  · rw [State.presented, h]; rfl

/-- Settles O52: the word stands on the ports as a request whose operands are all driven. -/
theorem fetchWordIsRunByTheNextStep : Obligations.FetchWordIsRunByTheNextStep := by
  intro s w _
  have hop := decode_op (Request.ofTableWord s.cfg.valueWidth w)
  obtain ⟨out, h⟩ := exists_resultOf (s := s.withFetchWord 8 w)
    (decode_wf (Request.ofTableWord s.cfg.valueWidth w)) (allPacked_decode fun _ => readable_lit _ 0)
  refine ⟨decode (Request.ofTableWord s.cfg.valueWidth w), fun hcfg => ?_, hop, ?_, _, h.exec_eq, rfl, hop⟩
  · rw [hcfg]; rfl
  · exact step_of_request rfl rfl rfl

end Sys2Proof.Machine
end

section
/-! The invariant of the response registers at reset. -/

namespace Sys2Proof.Machine

section Zero
variable (vw : Nat)

@[simp] theorem Rsp.zero_op : (Rsp.zero vw).op = 0 := rfl
@[simp] theorem Rsp.zero_status : (Rsp.zero vw).status = 0 := rfl
@[simp] theorem Rsp.zero_cell : (Rsp.zero vw).cell = 0 := rfl
@[simp] theorem Rsp.zero_exp : (Rsp.zero vw).exp = 0 := rfl
@[simp] theorem Rsp.zero_value : (Rsp.zero vw).value = 0 := rfl
@[simp] theorem Rsp.zero_grid : (Rsp.zero vw).grid = 0 := rfl
@[simp] theorem Rsp.zero_packed : (Rsp.zero vw).packed = 0 := rfl

end Zero

/-- The reset values are a response set the table of R162 allows: status OK, every field zero. -/
theorem rspInv_zero (cfg : Config) : RspInv cfg (Rsp.zero cfg.valueWidth) where
  produced := .inl rfl
  tile_ops := by simp
  exponent_ops := by simp
  illegal_ops := by simp
  cell_ops := by simp
  exp_ops := by simp
  value_ops := by simp
  grid_ops := by simp
  packed_ops := by simp
  exp_valid := Nat.zero_le _
  packed_valid := fun _ i _ => by rw [Rsp.zero_packed, byte_zero]; exact Nat.zero_le _

/-- Settles O39: the reset state's response registers are zero. -/
theorem resetMeetsTheResponseInvariant : Obligations.ResetMeetsTheResponseInvariant :=
  ⟨fun _ => rspInv_zero _, fun cfg _ => rspInv_zero cfg⟩

end Sys2Proof.Machine
end

section
/-! Bytes and lanes of a packed position: an element of an element, and what the byte swap does to a lane. -/

namespace Sys2Proof.Machine

/-- Element `i` of width `w` inside element `l`, which holds `k` of them, is element `k·l + i` of the whole. -/
theorem element_element {w k n i : Nat} (v : BitVec n) (l : Nat) (hi : i < k) :
    element w (element (w * k) v l) i = element w v (k * l + i) := by
  apply BitVec.eq_of_getLsbD_eq
  intro j hj
  have inside : w * i + j < w * k := by
    calc w * i + j < w * i + w := by omega
      _ = w * (i + 1) := (Nat.mul_succ w i).symm
      _ ≤ w * k := Nat.mul_le_mul_left w hi
  have index : w * k * l + (w * i + j) = w * (k * l + i) + j := by ring
  simp only [element_getLsbD, hj, inside, index, decide_true, Bool.true_and]

theorem element_halfLane (p : Packed) (l : Nat) {i : Nat} (hi : i < 8) :
    element 8 (halfLane p l) i = byte p (8 * l + i) := element_element (w := 8) (k := 8) p l hi

theorem element_halfLane_zero (p : Packed) {i : Nat} (hi : i < 8) : element 8 (halfLane p 0) i = byte p i := by
  rw [element_halfLane p 0 hi, Nat.mul_zero, Nat.zero_add]

/-- Every byte of a position stands in its lane at its offset (spec/20_memory.md R42). -/
theorem byte_eq_element_halfLane (p : Packed) (i : Nat) : byte p i = element 8 (halfLane p (i / 8)) (i % 8) := by
  rw [element_halfLane p _ (Nat.mod_lt i (by decide)), Nat.div_add_mod]

theorem element_swapLane (l : HalfLane) {i : Nat} (hi : i < 8) : element 8 (swapLane l) i = element 8 l (7 - i) :=
  element_assemble _ hi (by decide)

theorem swapLane_swapLane (l : HalfLane) : swapLane (swapLane l) = l := by
  refine eq_of_element_eq (w := 8) (k := 8) (by decide) fun i hi => ?_
  rw [element_swapLane _ hi, element_swapLane _ (by omega), show 7 - (7 - i) = i by omega]

/-- Settles O46: a byte is an element of the position and of its lane. -/
theorem layoutOfThePackedPosition : Obligations.LayoutOfThePackedPosition :=
  fun p => ⟨rfl, rfl, fun i => ⟨rfl, byte_eq_element_halfLane p i⟩, fun _ _ => rfl⟩

end Sys2Proof.Machine
end

section
/-! Multi-byte writes and reads of the host's memory: a write depends on the bytes it writes only and splits in two, and
a read is known by the bytes it finds. -/

namespace Sys2Proof.Machine

section Write
variable (m : Memory) (addr : Nat) {w w' n k : Nat} {u : BitVec w} {v : BitVec w'}

theorem memWrite_congr (same : ∀ i, i < n → element 8 u i = element 8 v i) :
    memWrite m addr n u = memWrite m addr n v := by
  induction n with
  | zero => rfl
  | succ n ih => rw [memWrite, memWrite, ih fun i hi => same i (by omega), same n (by omega)]

/-- A write of `n + k` bytes is one of its first `n` and then one of the `k` after them. -/
theorem memWrite_add (same : ∀ i, i < k → element 8 u i = element 8 v (n + i)) :
    memWrite m addr (n + k) v = memWrite (memWrite m addr n v) (addr + n) k u := by
  induction k with
  | zero => rfl
  | succ k ih =>
    rw [← Nat.add_assoc, memWrite, memWrite, ih fun i hi => same i (by omega), same k (by omega), Nat.add_assoc]

theorem readByte_memWrite_of_lt (v : BitVec w) {i : Nat} (hi : i < n) :
    (memWrite m addr n v).readByte (addr + i) = some (element 8 v i) := by
  rw [readByte_memWrite, if_pos ⟨by omega, by omega⟩, Nat.add_sub_cancel_left]

theorem readByte_memWrite_of_outside (v : BitVec w) {a : Nat} (ha : a < addr ∨ addr + n ≤ a) :
    (memWrite m addr n v).readByte a = m.readByte a := by
  rw [readByte_memWrite, if_neg (by omega)]

end Write

section Read
variable {m : Memory} {addr n : Nat} {v : BitVec (8 * n)}

theorem allWritten_iff : allWritten m addr n = true ↔ ∀ i, i < n → (m.readByte (addr + i)).isSome = true := by
  simp [allWritten]

/-- A little-endian read answers the value whose byte `i` is at `addr + i`. -/
theorem memRead_eq_some (bytes : ∀ i, i < n → m.readByte (addr + i) = some (element 8 v i)) :
    memRead m addr n = some v := by
  have written : allWritten m addr n = true := allWritten_iff.mpr fun i hi => by rw [bytes i hi]; rfl
  rw [memRead, if_pos written]
  refine congrArg some (eq_of_element_eq rfl fun i hi => ?_)
  rw [element_assemble _ hi (Nat.le_refl _), bytes i hi, Option.getD_some]

/-- A big-endian read answers the value whose byte `n − 1 − i` is at `addr + i`. -/
theorem memReadBig_eq_some (bytes : ∀ i, i < n → m.readByte (addr + i) = some (element 8 v (n - 1 - i))) :
    memReadBig m addr n = some v := by
  have written : allWritten m addr n = true := allWritten_iff.mpr fun i hi => by rw [bytes i hi]; rfl
  rw [memReadBig, if_pos written]
  refine congrArg some (eq_of_element_eq rfl fun i hi => ?_)
  rw [element_assemble _ hi (Nat.le_refl _), bytes _ (by omega), Option.getD_some,
    show n - 1 - (n - 1 - i) = i by omega]

end Read

end Sys2Proof.Machine
end

section
/-! The stored form of a packed position (spec/20_memory.md R45 to R47). -/

namespace Sys2Proof.Machine

open Sys2Proof.Certificates

section Stored
variable (m : Memory) (base : Nat) (p : Packed)

theorem readByte_storePacked {i : Nat} (hi : i < 16) :
    (storePacked m base p).readByte (base + i) = some (byte p i) := readByte_memWrite_of_lt m base p hi

/-- The low lane's bytes are the position's first eight, the high lane's the eight after them. -/
theorem storeLanes_eq_storePacked : storeLanes m base p = storePacked m base p := by
  have low : memWrite m base 8 (halfLane p 0) = memWrite m base 8 p :=
    memWrite_congr m base fun _ hi => element_halfLane_zero p hi
  have split : memWrite m base (8 + 8) p = memWrite (memWrite m base 8 p) (base + 8) 8 (halfLane p 1) :=
    memWrite_add m base fun _ hi => element_halfLane p 1 hi
  rw [storeLanes, low, ← split, storePacked]

theorem memRead_storePacked : memRead (storePacked m base p) base 16 = some p :=
  memRead_eq_some fun _ hi => readByte_storePacked m base p hi

/-- A 64-bit little-endian read at `base + 8·l` answers lane `l`. -/
theorem memRead_storePacked_lane {l : Nat} (hl : l < 2) :
    memRead (storePacked m base p) (base + 8 * l) 8 = some (halfLane p l) := by
  refine memRead_eq_some fun i hi => ?_
  rw [Nat.add_assoc, readByte_storePacked m base p (by omega)]
  exact congrArg some (element_halfLane p l hi).symm

/-- A 64-bit big-endian read at `base` answers lane 0 with its bytes swapped. -/
theorem memReadBig_storePacked :
    memReadBig (storePacked m base p) base 8 = some (swapLane (halfLane p 0)) := by
  refine memReadBig_eq_some fun i hi => ?_
  have swapped : element 8 (swapLane (halfLane p 0)) (8 - 1 - i) = byte p i := by
    rw [element_swapLane _ (by omega), show 7 - (8 - 1 - i) = i by omega, element_halfLane_zero p hi]
  rw [readByte_storePacked m base p (by omega)]
  exact congrArg some swapped.symm

end Stored

/-- Settles O48: the store writes the position's sixteen bytes and nothing else, and so do the stores of its lanes. -/
theorem wireFormatStoresByteIAtBasePlusI : Obligations.WireFormatStoresByteIAtBasePlusI := fun m base p =>
  ⟨fun i => readByte_storePacked m base p i.isLt, fun _ outside => readByte_memWrite_of_outside m base p outside,
    storeLanes_eq_storePacked m base p, memRead_storePacked m base p⟩

/-- Settles O49: the big-endian read is the swapped lane, and swapping twice changes nothing. -/
theorem wideReadsOfTheStoredForm : Obligations.WideReadsOfTheStoredForm := by
  intro m base p
  have lane_read {l : Nat} (hl : l < 2) := memRead_storePacked_lane m base p hl
  refine ⟨lane_read (l := 0) (by decide), lane_read (l := 1) (by decide),
    memRead_storePacked m base p, _, memReadBig_storePacked m base p, fun i => ?_, swapLane_swapLane _⟩
  calc element 8 (swapLane (halfLane p 0)) (7 - i.val)
      = element 8 (halfLane p 0) (7 - (7 - i.val)) := element_swapLane _ (by omega)
    _ = element 8 (halfLane p 0) i := congrArg _ (by omega)
    _ = byte p i := element_halfLane_zero p i.isLt

end Sys2Proof.Machine
end

section
/-! One response per accepted request, and the same response to the same request (spec/20_memory.md R48 and R51). -/

namespace Sys2Proof.Machine

/-- Settles O7: of the branches an edge after reset takes, only an accepted request's raises `rsp_valid`. -/
theorem responseExactlyAfterAnAcceptedRequest : Obligations.ResponseExactlyAfterAnAcceptedRequest := by
  intro s t hw h
  rcases step_next h with ⟨hr, rfl⟩ | ⟨hr, -, hv, u, hu, rfl⟩ | ⟨hr, -, hv, rfl⟩ | ⟨-, unreset, -⟩
  · rw [hr]; rfl
  · obtain ⟨out, -, rfl⟩ := exec_next hu
    rw [hr, hv]; rfl
  · rw [hr, hv]; rfl
  · exact absurd (hw.symm.trans unreset) (by decide)

/-- An instruction that is neither a ROTATE nor an UNPACK of the fed-back operand reads no response register. -/
theorem allPacked_ne_rsp {i : Instr} (hrotate : ∀ n, i ≠ .rotate .rsp n) (hunpack : i ≠ .unpack .rsp) :
    i.AllPacked (· ≠ .rsp) := by
  cases i with
  | unpack packed => exact fun fed_back => hunpack (by rw [fed_back])
  | rotate packed turns => exact fun fed_back => hrotate turns (by rw [fed_back])
  | _ => trivial

/-- Settles O10: the result depends on the build only, and a second `accept` of one result changes nothing. -/
theorem repeatedRequestGivesTheSameResponse : Obligations.RepeatedRequestGivesTheSameResponse := by
  intro i s t hrotate hunpack h
  obtain ⟨out, result, rfl⟩ := exec_next h
  have again : ResultOf (s.accept i.op out) i out := result.of_same_build (allPacked_ne_rsp hrotate hunpack) _ _ _ _ _
  exact again.exec_eq

end Sys2Proof.Machine
end

section
/-! The encoder: the op code it drives, and that it inverts the decoder on the ports an operation names
(spec/30_encoding.md R60 and R61). -/

namespace Sys2Proof.Machine

/-- A grid bus is known by the sixteen integers it carries. -/
theorem busOfGrid_gridOfBus {vw : Nat} (b : GridBus vw) : busOfGrid vw (gridOfBus b) = b :=
  bus_ext fun i hi => by rw [cell_busOfGrid _ hi, gridAt_gridOfBus b hi, BitVec.ofNat_toNat, BitVec.setWidth_eq]

theorem gridOfBus_zero (vw : Nat) : gridOfBus (0 : GridBus vw) = Vector.replicate 16 0 :=
  grid_ext fun i hi => by rw [gridAt_gridOfBus _ hi, cell_zero, gridAt_eq _ hi, Vector.getElem_replicate]; rfl

end Sys2Proof.Machine

namespace Sys2Proof

open Machine (gridOfBus_busOfGrid busOfGrid_gridOfBus gridOfBus_zero all_fitsPort_iff)

@[simp] theorem encode_op (vw : Nat) (i : Instr) : (encode vw i).op = i.op := by
  cases i <;> rfl

@[simp] theorem encode_decode_op {vw : Nat} (r : Request vw) : (encode vw (decode r)).op = r.op :=
  (encode_op vw _).trans (decode_op r)

/-- An instruction whose operands fit the ports is read back from them. -/
theorem decode_encode {cfg : Config} {i : Instr} (hwf : i.wf cfg = true) : decode (encode cfg.valueWidth i) = i := by
  have hop := encode_op cfg.valueWidth i
  cases i with
  | encode value =>
    have fits : value < 2 ^ cfg.valueWidth := of_decide_eq_true hwf
    calc decode (encode cfg.valueWidth (.encode value))
        = .encode (BitVec.ofNat cfg.valueWidth value).toNat := decode_of_opEncode hop
      _ = .encode value := by rw [BitVec.toNat_ofNat, Nat.mod_eq_of_lt fits]
  | decode exp => exact decode_of_opDecode hop
  | pack grid =>
    have fits := (all_fitsPort_iff cfg grid).mp hwf
    exact (decode_of_opPack hop).trans (congrArg Instr.pack (gridOfBus_busOfGrid fits))
  | unpack packed => exact decode_of_opUnpack hop
  | rotate packed turns => exact decode_of_opRotate hop
  | reserved101 => exact decode_of_opReserved101 hop
  | reserved11x low => exact decode_of_opReserved11x hop

/-- Settles O42. Only ENCODE and PACK have an operand that their port can cut short, and what fits is carried whole. -/
theorem decodeOfEncodeIsTheInstruction : Obligations.DecodeOfEncodeIsTheInstruction :=
  fun _ _ hwf => decode_encode hwf

/-- Settles O43: the decoder reads the named port whole, and the encoder drives it with what was read. -/
theorem encodeOfDecodeKeepsTheNamedPorts : Obligations.EncodeOfDecodeKeepsTheNamedPorts := by
  refine fun vw r => ⟨encode_decode_op r, fun h => ?_, fun h => ?_, fun h => ?_, fun h => ?_, fun h => ?_⟩
  · rw [decode_of_opEncode h]
    exact (BitVec.ofNat_toNat vw r.value).trans (BitVec.setWidth_eq _)
  · rw [decode_of_opDecode h]; rfl
  · rw [decode_of_opPack h]
    exact busOfGrid_gridOfBus r.grid
  · rw [decode_of_opUnpack h]; rfl
  · rw [decode_of_opRotate h]; exact ⟨rfl, rfl⟩

/-- Settles O44, by the case of each op code. -/
theorem decodedInstructionIsWellFormed : Obligations.DecodedInstructionIsWellFormed :=
  fun _ r => decode_wf r

/-- Settles O40, by the decoder's equation for each op code. -/
theorem opcodeMapIsTheSpecs : Obligations.OpcodeMapIsTheSpecs :=
  fun _ _ => ⟨decode_of_opEncode, decode_of_opDecode, decode_of_opPack, decode_of_opUnpack, decode_of_opRotate,
    decode_of_opReserved101, decode_of_opReserved11x (low := false), decode_of_opReserved11x (low := true)⟩

/-- Every instruction's op code falls under one row of the opcode table, its own. -/
theorem oneTableRow (i : Instr) : Laws.TableRow.Statement i := by
  cases i with
  | encode value => exact Laws.TableRow.encode value
  | decode exp => exact Laws.TableRow.decode exp
  | pack grid => exact Laws.TableRow.pack grid
  | unpack packed => exact Laws.TableRow.unpack packed
  | rotate packed turns => exact Laws.TableRow.rotate packed turns
  | reserved101 => exact Laws.TableRow.reserved101
  | reserved11x low => exact Laws.TableRow.reserved11x low

/-- Settles O41: the request has the op code that the instruction it presents is encoded under. -/
theorem oneTableRowCoversEachRequest : Obligations.OneTableRowCoversEachRequest := by
  intro vw r
  have row := oneTableRow (decode r) vw
  rwa [encode_decode_op] at row

/-- PACK with every operand port zero packs sixteen zeros. -/
theorem decode_ofOp_opPack (vw : Nat) : decode (Request.ofOp vw opPack) = .pack (Vector.replicate 16 0) := by
  rw [decode_of_opPack rfl]
  exact congrArg Instr.pack (gridOfBus_zero vw)

/-- Settles O45: a word puts its op code beside operand ports that are all zero. -/
theorem tableWordsDecode : Obligations.TableWordsDecode :=
  ⟨congrArg some (decode_of_opEncode rfl), congrArg some (decode_of_opDecode rfl),
    congrArg some (decode_ofOp_opPack Config.standard.valueWidth), congrArg some (decode_of_opUnpack rfl),
    congrArg some (decode_of_opRotate rfl), congrArg some (decode_of_opReserved101 rfl),
    congrArg some (decode_of_opReserved11x (low := false) rfl),
    congrArg some (decode_of_opReserved11x (low := true) rfl)⟩

end Sys2Proof
end

section
/-! Requests that are refused for an operand wider than its port, and the reserved ops (spec/30_encoding.md R63 and
R65). -/

namespace Sys2Proof.Machine

open Sys2Proof.Certificates

/-- The check that PACK's operand goes through is `GridFits`. -/
theorem all_fitsPort_iff_gridFits {cfg : Config} {g : Grid} : g.toList.all (fitsPort cfg) = true ↔ GridFits cfg g :=
  (all_fitsPort_iff cfg g).trans gridFits_iff.symm

theorem exec_encode_wide {s : State} {v : Nat} (h : 2 ^ s.cfg.valueWidth ≤ v) :
    exec (.encode v) s = .refused .operandWiderThanPort := by
  simp only [exec, execEncode, valueOperand_wide h, orRefuse_error]

theorem exec_pack_wide {s : State} {g : Grid} (h : ¬ GridFits s.cfg g) :
    exec (.pack g) s = .refused .operandWiderThanPort := by
  have wide : g.toList.all (fitsPort s.cfg) = false := Bool.eq_false_iff.mpr (mt all_fitsPort_iff_gridFits.mp h)
  simp only [exec, execPack, gridOperand_wide wide, orRefuse_error]

/-- Settles O50: the operand's read refuses it, and the instruction with it. -/
theorem operandWiderThanItsPortIsRefused : Obligations.OperandWiderThanItsPortIsRefused :=
  fun _ => ⟨fun _ => exec_encode_wide, fun _ => exec_pack_wide⟩

/-- Settles O35: the result of each reserved op is `raise` of ILLEGAL_OP. -/
theorem reservedOpsAnswerIllegalOp : Obligations.ReservedOpsAnswerIllegalOp :=
  fun _ => ⟨ResultOf.reserved101.exec_eq, (ResultOf.reserved11x false).exec_eq, (ResultOf.reserved11x true).exec_eq⟩

end Sys2Proof.Machine
end

section
/-! ROTATE reads the low two bits of its count, and by 0 changes nothing; the pseudo-instructions
(spec/30_encoding.md R70, spec/42_rotation.md R141 and R143). -/

namespace Sys2Proof.Machine

open Sys2Proof.Certificates

/-- Counts that name the same quarter turns rotate alike. -/
theorem rotateOut_congr {m n : Turns} (h : quarterTurns m = quarterTurns n) (vw : Nat) (p : Packed) :
    rotateOut vw p m = rotateOut vw p n := by
  simp only [rotateOut, h]

theorem exec_rotate_congr_turns {m n : Turns} (h : quarterTurns m = quarterTurns n) (packed : PackedOperand)
    (s : State) : exec (.rotate packed m) s = exec (.rotate packed n) s := by
  simp only [exec, execRotate, rotateOut_congr h]

theorem rotTable0_apply : ∀ i, i < 16 → (rotTable0[i]?.getD 0).val = i := by decide

theorem permuteBytes_rotTable0 (p : Packed) : permuteBytes rotTable0 p = p :=
  packed_ext fun i hi => by rw [permuteBytes, byte_packedOfBytes _ hi, rotTable0_apply i hi]

@[simp] theorem rotateOut_zero (vw : Nat) (p : Packed) : rotateOut vw p 0 = { Out.zero vw with packed := p } :=
  congrArg (fun q => { Out.zero vw with packed := q }) (permuteBytes_rotTable0 p)

/-- Settles O34: −1 and 3 are the same quarter turns, and T0 is the identity. -/
theorem pseudoInstructionsAreRotations : Obligations.PseudoInstructionsAreRotations := by
  refine fun p => ⟨rfl, rfl, rfl, rfl, exec_rotate_congr_turns (by decide) p, fun s x => ?_⟩
  calc exec (.rotate (.lit x) 0) s
      = .next (s.accept opRotate (rotateOut s.cfg.valueWidth x 0)) :=
        (ResultOf.rotate 0 (packedOperand_lit s x)).exec_eq
    _ = .next (responded s 0b100#3 0 0 0 0 0 x) := by rw [rotateOut_zero]; rfl

end Sys2Proof.Machine
end

section
/-! The tile codec on its own: exponents and values of the valid domains, and that they invert each other
(spec/40_tile_codec.md R102 to R106). -/

namespace Sys2Proof.Machine

open Sys2Proof.Certificates

theorem exponentOf_of_zero {vw : Nat} {x : TileValue vw} (h : x.toNat = 0) : exponentOf x = 0 :=
  if_pos (BitVec.eq_of_toNat_eq h)

theorem exponentOf_of_two_pow {vw k : Nat} {x : TileValue vw} (h : x.toNat = 2 ^ k) :
    exponentOf x = BitVec.ofNat 8 k := by
  have nonzero : x ≠ 0 := by
    rintro rfl
    exact absurd h.symm (Nat.two_pow_pos k).ne'
  rw [exponentOf, if_neg nonzero, log2_eq h]

theorem valueOf_of_zero {e : Exponent} (h : e.toNat = 0) (vw : Nat) : valueOf vw e = 0 :=
  if_pos (BitVec.eq_of_toNat_eq h)

theorem valueOf_of_pos {e : Exponent} (h : 1 ≤ e.toNat) (vw : Nat) : valueOf vw e = 1#vw <<< e.toNat := by
  have nonzero : e ≠ 0 := by
    rintro rfl
    exact absurd h (by decide)
  exact if_neg nonzero

/-- The check of R100 is `ValidTile`. -/
theorem validValue_iff_validTile {cfg : Config} {vw : Nat} {x : TileValue vw} :
    validValue cfg x = true ↔ ValidTile cfg x.toNat := validValue_iff cfg x

section Legal
variable {cfg : Config} (legal : cfg.Legal)
include legal

/-- In a legal build a valid exponent keeps the bit of `1 << e` inside VALUE_WIDTH bits. -/
theorem toNat_one_shiftLeft {e : Exponent} (he : e.toNat ≤ cfg.maxExp) :
    (1#cfg.valueWidth <<< e.toNat).toNat = 2 ^ e.toNat := by
  obtain ⟨-, -, wide⟩ := legal
  exact BitVec.toNat_twoPow_of_lt (by omega)

/-- In a legal build an exponent up to MAX_EXPONENT fits its byte. -/
theorem toNat_ofNat_exponent {k : Nat} (hk : k ≤ cfg.maxExp) : (BitVec.ofNat 8 k).toNat = k := by
  obtain ⟨-, small, -⟩ := legal
  rw [BitVec.toNat_ofNat, Nat.mod_eq_of_lt (by omega)]

theorem validTile_lt_two_pow {v : Nat} (hv : ValidTile cfg v) : v < 2 ^ cfg.valueWidth := by
  obtain ⟨-, -, wide⟩ := legal
  rcases hv with rfl | ⟨k, -, hk, rfl⟩
  · exact Nat.two_pow_pos _
  · exact Nat.pow_lt_pow_right (by decide) (by omega)

theorem toNat_exponentOf_le {x : TileValue cfg.valueWidth} (hx : ValidTile cfg x.toNat) :
    (exponentOf x).toNat ≤ cfg.maxExp := by
  rcases hx with h | ⟨k, -, hk, h⟩
  · rw [exponentOf_of_zero h]
    exact Nat.zero_le _
  · rwa [exponentOf_of_two_pow h, toNat_ofNat_exponent legal hk]

theorem toNat_valueOf {e : Exponent} (hpos : 1 ≤ e.toNat) (he : e.toNat ≤ cfg.maxExp) :
    (valueOf cfg.valueWidth e).toNat = 2 ^ e.toNat := by
  rw [valueOf_of_pos hpos, toNat_one_shiftLeft legal he]

theorem validTile_valueOf {e : Exponent} (he : e.toNat ≤ cfg.maxExp) :
    ValidTile cfg (valueOf cfg.valueWidth e).toNat := by
  rcases Nat.eq_zero_or_pos e.toNat with h | hpos
  · exact .inl (by rw [valueOf_of_zero h]; rfl)
  · exact .inr ⟨_, hpos, he, toNat_valueOf legal hpos he⟩

theorem valueOf_exponentOf {x : TileValue cfg.valueWidth} (hx : ValidTile cfg x.toNat) :
    valueOf cfg.valueWidth (exponentOf x) = x := by
  rcases hx with h | ⟨k, hpos, hk, h⟩
  · rw [exponentOf_of_zero h, valueOf_of_zero rfl]
    exact (BitVec.eq_of_toNat_eq h).symm
  · have same := toNat_ofNat_exponent legal hk
    apply BitVec.eq_of_toNat_eq
    rw [exponentOf_of_two_pow h, toNat_valueOf legal (by rwa [same]) (by rwa [same]), same, h]

theorem exponentOf_valueOf {e : Exponent} (he : e.toNat ≤ cfg.maxExp) :
    exponentOf (valueOf cfg.valueWidth e) = e := by
  rcases Nat.eq_zero_or_pos e.toNat with h | hpos
  · rw [valueOf_of_zero h, exponentOf_of_zero rfl]
    exact (BitVec.eq_of_toNat_eq h).symm
  · rw [exponentOf_of_two_pow (toNat_valueOf legal hpos he), BitVec.ofNat_toNat, BitVec.setWidth_eq]

/-- Having an inverse, the exponent tells valid values apart. -/
theorem exponentOf_inj {x y : TileValue cfg.valueWidth} (hx : ValidTile cfg x.toNat) (hy : ValidTile cfg y.toNat)
    (h : exponentOf x = exponentOf y) : x = y := by
  rw [← valueOf_exponentOf legal hx, h, valueOf_exponentOf legal hy]

end Legal

end Sys2Proof.Machine
end

section
/-! ENCODE and DECODE as instructions: one equation for the valid operand and one for the other
(spec/40_tile_codec.md R102 to R106). -/

namespace Sys2Proof.Machine

open Sys2Proof.Certificates

/-- The value operand is the word on the port that has the integer's value. -/
theorem valueOperand_ok_iff {cfg : Config} {v : Nat} {x : TileValue cfg.valueWidth} :
    valueOperand cfg v = .ok x ↔ x.toNat = v := by
  constructor
  · intro h
    rcases Nat.lt_or_ge v (2 ^ cfg.valueWidth) with fits | wide
    · rw [valueOperand_fits fits] at h
      injection h with h
      rw [← h, BitVec.toNat_ofNat, Nat.mod_eq_of_lt fits]
    · rw [valueOperand_wide wide] at h
      exact nomatch h
  · rintro rfl
    rw [valueOperand_fits x.isLt, BitVec.ofNat_toNat, BitVec.setWidth_eq]

theorem encodeOut_valid {cfg : Config} {x : TileValue cfg.valueWidth} (h : ValidTile cfg x.toNat) :
    encodeOut cfg x = { Out.zero cfg.valueWidth with exp := exponentOf x } :=
  if_pos (validValue_iff_validTile.mpr h)

theorem encodeOut_invalid {cfg : Config} {x : TileValue cfg.valueWidth} (h : ¬ ValidTile cfg x.toNat) :
    encodeOut cfg x = raise .invalidTile 0 :=
  if_neg (mt validValue_iff_validTile.mp h)

theorem decodeOut_valid {cfg : Config} {e : Exponent} (h : e.toNat ≤ cfg.maxExp) :
    decodeOut cfg e = { Out.zero cfg.valueWidth with value := valueOf cfg.valueWidth e } :=
  if_pos ((validExp_iff cfg e).mpr h)

theorem decodeOut_invalid {cfg : Config} {e : Exponent} (h : cfg.maxExp < e.toNat) :
    decodeOut cfg e = raise .invalidExponent 0 :=
  if_neg (mt (validExp_iff cfg e).mp (Nat.not_le.mpr h))

section Exec
variable {s : State} {x : TileValue s.cfg.valueWidth} {e : Exponent}

theorem exec_encode_toNat (s : State) (x : TileValue s.cfg.valueWidth) :
    exec (.encode x.toNat) s = .next (s.accept opEncode (encodeOut s.cfg x)) :=
  (ResultOf.encode (valueOperand_ok_iff.mpr rfl)).exec_eq

theorem exec_encode_valid (h : ValidTile s.cfg x.toNat) :
    exec (.encode x.toNat) s = .next (responded s 0b000#3 0 0 (exponentOf x) 0 0 0) := by
  rw [exec_encode_toNat, encodeOut_valid h]
  rfl

theorem exec_encode_invalid (h : ¬ ValidTile s.cfg x.toNat) :
    exec (.encode x.toNat) s = .next (responded s 0b000#3 1 0 0 0 0 0) := by
  rw [exec_encode_toNat, encodeOut_invalid h]
  rfl

theorem exec_decode_valid (h : e.toNat ≤ s.cfg.maxExp) :
    exec (.decode e) s = .next (responded s 0b001#3 0 0 0 (valueOf s.cfg.valueWidth e) 0 0) := by
  rw [(ResultOf.decode e).exec_eq, decodeOut_valid h]
  rfl

theorem exec_decode_invalid (h : s.cfg.maxExp < e.toNat) :
    exec (.decode e) s = .next (responded s 0b001#3 2 0 0 0 0 0) := by
  rw [(ResultOf.decode e).exec_eq, decodeOut_invalid h]
  rfl

/-- An ENCODE answered OK was of a valid value and answers its exponent. -/
theorem exec_encode_ok {t : State} {v : Nat} (h : exec (.encode v) s = .next t) (ok : t.rsp.status = 0) :
    ∃ x : TileValue s.cfg.valueWidth, x.toNat = v ∧ ValidTile s.cfg x.toNat ∧ t.rsp.exp = exponentOf x := by
  obtain ⟨_, @⟨_, x, operand⟩, rfl⟩ := exec_next h
  by_cases valid : ValidTile s.cfg x.toNat
  · exact ⟨x, valueOperand_ok_iff.mp operand, valid, by rw [accept_rsp_exp, encodeOut_valid valid]⟩
  · rw [accept_rsp_status, encodeOut_invalid valid, raise_status] at ok
    exact absurd ok (by decide)

end Exec

/-- Settles O14: 0 and 2^k are valid tiles, whose exponents are 0 and k. -/
theorem encodeAnswersTheExponentOrInvalidTile : Obligations.EncodeAnswersTheExponentOrInvalidTile := by
  intro s v fits
  obtain ⟨x, rfl⟩ : ∃ x : TileValue s.cfg.valueWidth, x.toNat = v := ⟨⟨v, fits⟩, rfl⟩
  refine ⟨fun zero => ?_, fun k hpos hk power => ?_, exec_encode_invalid⟩
  · rw [exec_encode_valid (.inl zero), exponentOf_of_zero zero]
  · rw [exec_encode_valid (.inr ⟨k, hpos, hk, power⟩), exponentOf_of_two_pow power]

/-- Settles O15: what is answered OK is valid, and on valid values the exponent is injective. -/
theorem encodeNeverAliases : Obligations.EncodeNeverAliases := by
  intro s t u v w legal ht hu okt oku
  obtain ⟨x, rfl, hx, ex⟩ := exec_encode_ok ht okt
  obtain ⟨y, rfl, hy, ey⟩ := exec_encode_ok hu oku
  refine ⟨hx, fun same => congrArg BitVec.toNat (exponentOf_inj legal hx hy ?_)⟩
  rw [← ex, same, ey]

/-- Settles O16, by the equations of DECODE for a valid and an invalid exponent. -/
theorem decodeAnswersTheValueOrInvalidExponent : Obligations.DecodeAnswersTheValueOrInvalidExponent := by
  refine fun s e => ⟨exec_decode_invalid, ?_, fun hpos he => ?_, fun legal => toNat_one_shiftLeft legal⟩
  · rintro rfl
    rw [exec_decode_valid (Nat.zero_le _), valueOf_of_zero rfl]
  · rw [exec_decode_valid he, valueOf_of_pos hpos]

/-- Settles O17: each operation answers in the other's valid domain, where the two functions are inverse. -/
theorem encodeAndDecodeAreInverse : Obligations.EncodeAndDecodeAreInverse := by
  refine fun s legal => ⟨fun v hv => ?_, fun e he => ?_⟩
  · obtain ⟨x, rfl⟩ : ∃ x : TileValue s.cfg.valueWidth, x.toNat = v := ⟨⟨v, validTile_lt_two_pow legal hv⟩, rfl⟩
    exact ⟨_, _, exec_encode_valid hv, rfl, exec_decode_valid (toNat_exponentOf_le legal hv), rfl,
      congrArg BitVec.toNat (valueOf_exponentOf legal hv)⟩
  · exact ⟨_, _, exec_decode_valid he, rfl, exec_encode_valid (validTile_valueOf legal he), rfl,
      exponentOf_valueOf legal he⟩

end Sys2Proof.Machine
end

section
/-! The position codec on its own: cell by cell it is the tile codec, so its two functions invert each other on the
valid domains (spec/41_position_codec.md R120, R124, R126 and R127). -/

namespace Sys2Proof.Machine

open Sys2Proof.Certificates

/-- The packed position whose byte i is the exponent of cell i (spec/41_position_codec.md R120). -/
def exponentsOf {vw : Nat} (b : GridBus vw) : Packed := packedOfBytes fun i => exponentOf (cell b i)

/-- The grid whose cell i is the tile value of byte i (spec/41_position_codec.md R124). -/
def valuesOf (vw : Nat) (p : Packed) : GridBus vw := busOfCells fun i => valueOf vw (byte p i)

/-- Every cell of a grid bus holds a valid tile value (spec/40_tile_codec.md R100). -/
def TilesValid (cfg : Config) {vw : Nat} (b : GridBus vw) : Prop := ∀ i : Fin 16, ValidTile cfg (cell b i).toNat

/-- Every byte of a packed position is a valid exponent (spec/20_memory.md R43). -/
def ExponentsValid (cfg : Config) (p : Packed) : Prop := ∀ i : Fin 16, (byte p i).toNat ≤ cfg.maxExp

theorem getElem_gridOfBus {vw : Nat} (b : GridBus vw) (i : Fin 16) : (gridOfBus b)[i] = (cell b i).toNat :=
  (gridAt_eq _ i.isLt).symm.trans (gridAt_gridOfBus b i.isLt)

theorem gridValid_gridOfBus {cfg : Config} {vw : Nat} {b : GridBus vw} :
    GridValid cfg (gridOfBus b) ↔ TilesValid cfg b := by
  simp only [GridValid, TilesValid, getElem_gridOfBus]

theorem byte_exponentsOf {vw i : Nat} (b : GridBus vw) (hi : i < 16) :
    byte (exponentsOf b) i = exponentOf (cell b i) := byte_packedOfBytes _ hi

theorem cell_valuesOf {i : Nat} (vw : Nat) (p : Packed) (hi : i < 16) :
    cell (valuesOf vw p) i = valueOf vw (byte p i) := cell_busOfCells _ hi

theorem byteAt_exponentsOf {vw : Nat} (b : GridBus vw) (i : Fin 16) :
    byteAt (exponentsOf b) i = exponentOf (cell b i) := byte_exponentsOf b i.isLt

theorem cellAt_valuesOf (vw : Nat) (p : Packed) (i : Fin 16) :
    cellAt (valuesOf vw p) i = valueOf vw (byteAt p i) := cell_valuesOf vw p i.isLt

theorem exponentsOf_zero (vw : Nat) : exponentsOf (0 : GridBus vw) = 0 :=
  packed_ext fun i hi => by rw [byte_exponentsOf _ hi, cell_zero, byte_zero, exponentOf_of_zero rfl]

theorem valuesOf_zero (vw : Nat) : valuesOf vw 0 = 0 :=
  bus_ext fun i hi => by rw [cell_valuesOf _ _ hi, byte_zero, cell_zero, valueOf_of_zero rfl]

section Legal
variable {cfg : Config} (legal : cfg.Legal)
include legal

theorem exponentOf_eq_zero_iff {x : TileValue cfg.valueWidth} (hx : ValidTile cfg x.toNat) :
    exponentOf x = 0 ↔ x.toNat = 0 := by
  refine ⟨fun h => ?_, exponentOf_of_zero⟩
  rw [← valueOf_exponentOf legal hx, h, valueOf_of_zero rfl]
  rfl

theorem two_pow_toNat_exponentOf {x : TileValue cfg.valueWidth} (hx : ValidTile cfg x.toNat) (nonzero : x.toNat ≠ 0) :
    2 ^ (exponentOf x).toNat = x.toNat := by
  have hpos : 1 ≤ (exponentOf x).toNat :=
    Nat.pos_of_ne_zero fun h => nonzero ((exponentOf_eq_zero_iff legal hx).mp (BitVec.eq_of_toNat_eq h))
  rw [← toNat_valueOf legal hpos (toNat_exponentOf_le legal hx), valueOf_exponentOf legal hx]

theorem gridFits_of_gridValid {g : Grid} (valid : GridValid cfg g) : GridFits cfg g :=
  fun i => validTile_lt_two_pow legal (valid i)

theorem valuesOf_exponentsOf {b : GridBus cfg.valueWidth} (valid : TilesValid cfg b) :
    valuesOf cfg.valueWidth (exponentsOf b) = b :=
  bus_ext fun i hi => by rw [cell_valuesOf _ _ hi, byte_exponentsOf _ hi, valueOf_exponentOf legal (valid ⟨i, hi⟩)]

theorem exponentsOf_valuesOf {p : Packed} (valid : ExponentsValid cfg p) :
    exponentsOf (valuesOf cfg.valueWidth p) = p :=
  packed_ext fun i hi => by rw [byte_exponentsOf _ hi, cell_valuesOf _ _ hi, exponentOf_valueOf legal (valid ⟨i, hi⟩)]

/-- PACK of a valid grid gives exponents that UNPACK accepts (spec/41_position_codec.md R122). -/
theorem exponentsValid_exponentsOf {b : GridBus cfg.valueWidth} (valid : TilesValid cfg b) :
    ExponentsValid cfg (exponentsOf b) := by
  intro i
  rw [byte_exponentsOf b i.isLt]
  exact toNat_exponentOf_le legal (valid i)

/-- UNPACK of a valid position gives tiles that PACK accepts. -/
theorem tilesValid_valuesOf {p : Packed} (valid : ExponentsValid cfg p) :
    TilesValid cfg (valuesOf cfg.valueWidth p) := by
  intro i
  rw [cell_valuesOf _ p i.isLt]
  exact validTile_valueOf legal (valid i)

end Legal

end Sys2Proof.Machine
end

section
/-! PACK and UNPACK as instructions: one equation for the valid operand and one for the lowest cell that fails
(spec/41_position_codec.md R120 to R129). -/

namespace Sys2Proof.Machine

open Sys2Proof.Certificates

/-- The grid operand is the bus that carries the sixteen integers. -/
theorem gridOperand_ok_iff {cfg : Config} {g : Grid} {b : GridBus cfg.valueWidth} :
    gridOperand cfg g = .ok b ↔ gridOfBus b = g := by
  constructor
  · intro h
    by_cases fits : g.toList.all (fitsPort cfg) = true
    · rw [gridOperand_fits fits] at h
      injection h with h
      rw [← h, gridOfBus_busOfGrid ((all_fitsPort_iff cfg g).mp fits)]
    · rw [gridOperand_wide (Bool.eq_false_iff.mpr fits)] at h
      exact nomatch h
  · rintro rfl
    rw [gridOperand_fits (gridOfBus_all_fitsPort b), busOfGrid_gridOfBus]

theorem exists_gridOfBus_eq {cfg : Config} {g : Grid} (fits : GridFits cfg g) :
    ∃ b : GridBus cfg.valueWidth, gridOfBus b = g := ⟨_, gridOfBus_busOfGrid (gridFits_iff.mp fits)⟩

section Results
variable {cfg : Config} {b : GridBus cfg.valueWidth} {p : Packed}

theorem packOut_valid (valid : TilesValid cfg b) :
    packOut cfg b = { Out.zero cfg.valueWidth with packed := exponentsOf b } := by
  have none_fails : firstFailing (fun i => validValue cfg (cell b i)) = none :=
    (firstFailing_eq_none_iff _).mpr fun i hi => validValue_iff_validTile.mpr (valid ⟨i, hi⟩)
  simp only [packOut, none_fails, exponentsOf]

theorem packOut_invalid {i : Fin 16} (invalid : ¬ ValidTile cfg (cell b i).toNat)
    (lower : ∀ j : Fin 16, j < i → ValidTile cfg (cell b j).toNat) :
    packOut cfg b = raise .invalidTile (BitVec.ofNat 4 i.val) := by
  have first_fails : firstFailing (fun i => validValue cfg (cell b i)) = some i.val :=
    (firstFailing_eq_some_iff _ _).mpr ⟨i.isLt, Bool.eq_false_iff.mpr (mt validValue_iff_validTile.mp invalid),
      fun j hj => validValue_iff_validTile.mpr (lower ⟨j, hj.trans i.isLt⟩ hj)⟩
  simp only [packOut, first_fails]

/-- PACK reports OK of valid grids only. -/
theorem tilesValid_of_packOut_ok (ok : (packOut cfg b).status = 0) : TilesValid cfg b := by
  cases failing : firstFailing fun i => validValue cfg (cell b i) with
  | none => exact fun i => validValue_iff_validTile.mp ((firstFailing_eq_none_iff _).mp failing i i.isLt)
  | some k =>
    simp only [packOut, failing, raise_status] at ok
    exact absurd ok (by decide)

theorem unpackOut_valid (valid : ExponentsValid cfg p) :
    unpackOut cfg p = { Out.zero cfg.valueWidth with grid := valuesOf cfg.valueWidth p } := by
  have none_fails : firstFailing (fun i => validExp cfg (byte p i)) = none :=
    (firstFailing_eq_none_iff _).mpr fun i hi => (validExp_iff _ _).mpr (valid ⟨i, hi⟩)
  simp only [unpackOut, none_fails, valuesOf]

theorem unpackOut_invalid {i : Fin 16} (invalid : cfg.maxExp < (byte p i).toNat)
    (lower : ∀ j : Fin 16, j < i → (byte p j).toNat ≤ cfg.maxExp) :
    unpackOut cfg p = raise .invalidExponent (BitVec.ofNat 4 i.val) := by
  have first_fails : firstFailing (fun i => validExp cfg (byte p i)) = some i.val :=
    (firstFailing_eq_some_iff _ _).mpr
      ⟨i.isLt, Bool.eq_false_iff.mpr (mt (validExp_iff _ _).mp (Nat.not_le.mpr invalid)),
        fun j hj => (validExp_iff _ _).mpr (lower ⟨j, hj.trans i.isLt⟩ hj)⟩
  simp only [unpackOut, first_fails]

end Results

section Exec
variable {s : State} {b : GridBus s.cfg.valueWidth} {p : Packed}

theorem exec_pack_gridOfBus (s : State) (b : GridBus s.cfg.valueWidth) :
    exec (.pack (gridOfBus b)) s = .next (s.accept opPack (packOut s.cfg b)) :=
  (ResultOf.pack (gridOperand_ok_iff.mpr rfl)).exec_eq

theorem exec_unpack_lit (s : State) (p : Packed) :
    exec (.unpack (.lit p)) s = .next (s.accept opUnpack (unpackOut s.cfg p)) :=
  (ResultOf.unpack (packedOperand_lit s p)).exec_eq

theorem exec_pack_valid (valid : TilesValid s.cfg b) :
    exec (.pack (gridOfBus b)) s = .next (responded s 0b010#3 0 0 0 0 0 (exponentsOf b)) := by
  rw [exec_pack_gridOfBus, packOut_valid valid]
  rfl

theorem exec_pack_invalid {i : Fin 16} (invalid : ¬ ValidTile s.cfg (cell b i).toNat)
    (lower : ∀ j : Fin 16, j < i → ValidTile s.cfg (cell b j).toNat) :
    exec (.pack (gridOfBus b)) s = .next (responded s 0b010#3 1 (BitVec.ofNat 4 i.val) 0 0 0 0) := by
  rw [exec_pack_gridOfBus, packOut_invalid invalid lower]
  rfl

theorem exec_unpack_valid (valid : ExponentsValid s.cfg p) :
    exec (.unpack (.lit p)) s = .next (responded s 0b011#3 0 0 0 0 (valuesOf s.cfg.valueWidth p) 0) := by
  rw [exec_unpack_lit, unpackOut_valid valid]
  rfl

theorem exec_unpack_invalid {i : Fin 16} (invalid : s.cfg.maxExp < (byte p i).toNat)
    (lower : ∀ j : Fin 16, j < i → (byte p j).toNat ≤ s.cfg.maxExp) :
    exec (.unpack (.lit p)) s = .next (responded s 0b011#3 2 (BitVec.ofNat 4 i.val) 0 0 0 0) := by
  rw [exec_unpack_lit, unpackOut_invalid invalid lower]
  rfl

/-- A PACK answered OK was of a valid grid and answers its exponents. -/
theorem exec_pack_ok {t : State} {g : Grid} (h : exec (.pack g) s = .next t) (ok : t.rsp.status = 0) :
    ∃ b : GridBus s.cfg.valueWidth, gridOfBus b = g ∧ TilesValid s.cfg b ∧ t.rsp.packed = exponentsOf b := by
  obtain ⟨_, result, rfl⟩ := exec_next h
  cases result with
  | @pack _ b operand =>
    have valid := tilesValid_of_packOut_ok ok
    exact ⟨b, gridOperand_ok_iff.mp operand, valid, by rw [accept_rsp_packed, packOut_valid valid]⟩

end Exec

/-- Settles O18: the grid is what some bus carries, and byte i of the answer is the exponent of its cell i. -/
theorem packAnswersTheExponentsOrTheLowestInvalidCell : Obligations.PackAnswersTheExponentsOrTheLowestInvalidCell := by
  intro s g fits
  obtain ⟨b, rfl⟩ := exists_gridOfBus_eq fits
  simp only [gridValid_gridOfBus, getElem_gridOfBus]
  refine ⟨fun valid => ⟨_, exec_pack_valid valid, fun i => ?_⟩, fun i => exec_pack_invalid⟩
  rw [byteAt_exponentsOf]
  exact ⟨exponentOf_of_zero, fun k _ _ => exponentOf_of_two_pow⟩

/-- Settles O19: a byte of the answer is the exponent of a valid tile. -/
theorem packProducesValidExponentsOnly : Obligations.PackProducesValidExponentsOnly := by
  intro s t g legal h ok i
  obtain ⟨b, rfl, valid, packed_eq⟩ := exec_pack_ok h ok
  rw [packed_eq, byteAt_exponentsOf, getElem_gridOfBus]
  exact ⟨toNat_exponentOf_le legal (valid i), exponentOf_eq_zero_iff legal (valid i),
    two_pow_toNat_exponentOf legal (valid i)⟩

/-- Settles O20: cell i of the answer is the tile value of byte i. -/
theorem unpackAnswersTheValuesOrTheLowestInvalidByte : Obligations.UnpackAnswersTheValuesOrTheLowestInvalidByte := by
  refine fun s p => ⟨fun valid => ⟨_, exec_unpack_valid valid, fun i => ?_⟩, fun i => exec_unpack_invalid⟩
  rw [cellAt_valuesOf]
  exact ⟨fun zero => if_pos zero, fun nonzero => if_neg nonzero⟩

/-- Settles O21: the exponents of a valid grid are valid, and their values are the grid. -/
theorem unpackAfterPackReturnsTheGrid : Obligations.UnpackAfterPackReturnsTheGrid := by
  intro s g legal valid
  obtain ⟨b, rfl⟩ := exists_gridOfBus_eq (gridFits_of_gridValid legal valid)
  simp only [gridValid_gridOfBus, getElem_gridOfBus] at valid ⊢
  exact ⟨_, _, exec_pack_valid valid, rfl, exec_unpack_valid (exponentsValid_exponentsOf legal valid), rfl,
    fun i => congrArg (fun grid => (cell grid i).toNat) (valuesOf_exponentsOf legal valid)⟩

/-- Settles O22: the values of a valid position are valid tiles, and their exponents are the position. The sixteen
integers presented to PACK are `gridOfBus` of the grid answered, by definition. -/
theorem packAfterUnpackReturnsThePosition : Obligations.PackAfterUnpackReturnsThePosition :=
  fun _ _ legal valid => ⟨_, _, exec_unpack_valid valid, rfl, exec_pack_valid (tilesValid_valuesOf legal valid), rfl,
    exponentsOf_valuesOf legal valid⟩

/-- Settles O23: 0 is a valid tile and a valid exponent in every build, each the other's image. -/
theorem allZeroGridAndPositionCorrespond : Obligations.AllZeroGridAndPositionCorrespond := by
  intro s
  constructor
  · have valid : TilesValid s.cfg (0 : GridBus s.cfg.valueWidth) := fun i => .inl (by rw [cell_zero]; rfl)
    rw [← gridOfBus_zero, exec_pack_valid valid, exponentsOf_zero]
  · have valid : ExponentsValid s.cfg 0 := fun i => by rw [byte_zero]; exact Nat.zero_le _
    rw [exec_unpack_valid valid, valuesOf_zero]

/-- Settles O24: byte i of an OK answer is a function of cell i. -/
theorem packTreatsEachCellAlone : Obligations.PackTreatsEachCellAlone := by
  intro s t u g h i ht hu okt oku same
  obtain ⟨b, rfl, -, tpacked⟩ := exec_pack_ok ht okt
  obtain ⟨c, rfl, -, upacked⟩ := exec_pack_ok hu oku
  rw [getElem_gridOfBus, getElem_gridOfBus] at same
  rw [tpacked, upacked, byteAt_exponentsOf, byteAt_exponentsOf, BitVec.eq_of_toNat_eq same]

end Sys2Proof.Machine
end

section
/-! The rotation count: its low two bits are its remainder mod 4, whatever its width was (spec/42_rotation.md R141). -/

namespace Sys2Proof.Machine

/-- Truncation to 32 bits keeps the low two bits, the remainder mod 4. -/
theorem toNat_quarterTurns_presentTurns (k : Int) : ((quarterTurns (presentTurns k)).toNat : Int) = k % 4 := by
  simp only [quarterTurns, presentTurns, BitVec.extractLsb'_toNat, BitVec.toNat_ofInt, Nat.shiftRight_zero]
  omega

@[simp] theorem presentTurns_toInt (n : Turns) : presentTurns n.toInt = n := BitVec.ofInt_toInt

theorem toNat_quarterTurns (n : Turns) : ((quarterTurns n).toNat : Int) = n.toInt % 4 := by
  have h := toNat_quarterTurns_presentTurns n.toInt
  rwa [presentTurns_toInt] at h

/-- Settles O27: a 32-bit count is the presented one of its signed value. -/
theorem quarterTurnsAreTheCountModFour : Obligations.QuarterTurnsAreTheCountModFour :=
  ⟨fun n => ⟨rfl, toNat_quarterTurns n⟩, toNat_quarterTurns_presentTurns, by decide, by decide, by decide⟩

end Sys2Proof.Machine
end

section
/-! The four tables: table q is q steps of table 1, and four steps are none (spec/42_rotation.md R142). -/

namespace Sys2Proof.Machine

open Sys2Proof.Certificates

/-- The byte that one quarter turn clockwise puts at byte i: the entry of T1 (spec/42_rotation.md R142). -/
def turnSource (i : Fin 16) : Fin 16 := rotTable1[i]

theorem rotTable_val : ∀ (q : BitVec 2) (i : Fin 16), ((rotTable q)[i]).val = rotSource q.toNat i := by decide

theorem rotTable_eq_iterate_turnSource : ∀ (q : BitVec 2) (i : Fin 16), (rotTable q)[i] = turnSource^[q.toNat] i := by
  decide

theorem turnSource_iterate_four : ∀ i : Fin 16, turnSource^[4] i = i := by decide

/-- Settles O26: the entries are the formulas at each q, and table q is q steps of T1. -/
theorem rotationTablesAreTheSpecs : Obligations.RotationTablesAreTheSpecs := by
  refine ⟨fun q i => ?_, by decide, by decide, by decide, by decide, fun i => ⟨?_, ?_, ?_⟩⟩
  · rw [rotTable_val, BitVec.toNat_ofNat, Nat.mod_eq_of_lt q.isLt]
  · exact rotTable_eq_iterate_turnSource 2 i
  · exact rotTable_eq_iterate_turnSource 3 i
  · exact (rotTable_eq_iterate_turnSource 0 i).trans (turnSource_iterate_four i).symm

end Sys2Proof.Machine
end

section
/-! ROTATE as an instruction: it gathers the bytes by the table of its count (spec/42_rotation.md R143 and R144). -/

namespace Sys2Proof.Machine

open Sys2Proof.Certificates

theorem byte_permuteBytes (table : Vector (Fin 16) 16) (p : Packed) (i : Fin 16) :
    byte (permuteBytes table p) i = byte p table[i] := by
  rw [permuteBytes, byte_packedOfBytes _ i.isLt]
  simp

theorem rotates_permuteBytes (s : State) (p : Packed) (n : Turns) :
    Rotates s p n (permuteBytes (rotTable (quarterTurns n)) p) :=
  (ResultOf.rotate n (packedOperand_lit s p)).exec_eq

/-- Settles O25: the table's entries are the spec's index for the count mod 4. -/
theorem rotateGathersByTheTable : Obligations.RotateGathersByTheTable := by
  refine fun s p n => ⟨_, rotates_permuteBytes s p n, fun i => ?_⟩
  calc byteAt (permuteBytes (rotTable (quarterTurns n)) p) i
      = byte p (rotTable (quarterTurns n))[i] := byte_permuteBytes _ p i
    _ = byteAt p (rotSource (n.toInt % 4).toNat i) := by
        rw [rotTable_val, ← toNat_quarterTurns, Int.toNat_natCast]
        rfl

end Sys2Proof.Machine
end

section
/-! ROTATE as a group action: a count is so many quarter turns mod 4, which add up (spec/42_rotation.md R146 and
R147). -/

namespace Sys2Proof.Machine

open Sys2Proof.Certificates

/-- One quarter turn clockwise of a packed position (spec/42_rotation.md R142). -/
def turnPacked (p : Packed) : Packed := permuteBytes rotTable1 p

/-- The position turned clockwise by `k` quarter turns, `k` of any sign (spec/42_rotation.md R141). -/
def turnPackedBy (k : Int) (p : Packed) : Packed := turnPacked^[(k % 4).toNat] p

theorem byte_turnPacked (p : Packed) (i : Fin 16) : byte (turnPacked p) i = byte p (turnSource i) :=
  byte_permuteBytes rotTable1 p i

theorem byte_turnPacked_iterate (k : Nat) (p : Packed) (i : Fin 16) :
    byte (turnPacked^[k] p) i = byte p (turnSource^[k] i) := by
  induction k generalizing i with
  | zero => rfl
  | succ k ih => rw [Function.iterate_succ_apply', byte_turnPacked, ih, ← Function.iterate_succ_apply]

theorem permuteBytes_rotTable (q : BitVec 2) (p : Packed) : permuteBytes (rotTable q) p = turnPacked^[q.toNat] p := by
  refine packed_ext fun i hi => ?_
  rw [byte_permuteBytes _ p ⟨i, hi⟩, rotTable_eq_iterate_turnSource, byte_turnPacked_iterate _ p ⟨i, hi⟩]

/-- Four quarter turns are the identity. -/
theorem turnPacked_isPeriodicPt (p : Packed) : Function.IsPeriodicPt turnPacked 4 p :=
  packed_ext fun i hi => by rw [byte_turnPacked_iterate 4 p ⟨i, hi⟩, turnSource_iterate_four]

theorem turnPackedBy_congr {a b : Int} (h : a % 4 = b % 4) (p : Packed) : turnPackedBy a p = turnPackedBy b p := by
  rw [turnPackedBy, h, turnPackedBy]

@[simp] theorem turnPackedBy_emod (a : Int) (p : Packed) : turnPackedBy (a % 4) p = turnPackedBy a p :=
  turnPackedBy_congr (Int.emod_emod_of_dvd a (dvd_refl 4)) p

@[simp] theorem turnPackedBy_zero (p : Packed) : turnPackedBy 0 p = p := rfl

/-- Turns add up; a full turn in the sum drops out. -/
@[simp] theorem turnPackedBy_turnPackedBy (a b : Int) (p : Packed) :
    turnPackedBy b (turnPackedBy a p) = turnPackedBy (a + b) p := by
  have counts : ((b % 4).toNat + (a % 4).toNat) % 4 = ((a + b) % 4).toNat := by omega
  simp only [turnPackedBy]
  rw [← Function.iterate_add_apply, ← (turnPacked_isPeriodicPt p).iterate_mod_apply, counts]

/-- Counts that add up to full turns undo each other. -/
theorem turnPackedBy_cancel {a b : Int} (full : (a + b) % 4 = 0) (p : Packed) :
    turnPackedBy b (turnPackedBy a p) = p := by
  rw [turnPackedBy_turnPackedBy, turnPackedBy_congr (b := 0) full, turnPackedBy_zero]

section Rotates
variable (s : State) {p q : Packed}

/-- ROTATE turns the position clockwise by its signed count. -/
theorem rotates_of_turnPackedBy_eq {n : Turns} (h : turnPackedBy n.toInt p = q) : Rotates s p n q := by
  have gathers := rotates_permuteBytes s p n
  rwa [permuteBytes_rotTable, ← Int.toNat_natCast (quarterTurns n).toNat, toNat_quarterTurns, ← turnPackedBy, h]
    at gathers

/-- ROTATE by a presented count: the truncation to 32 bits drops full turns only. -/
theorem rotates_presentTurns_of_turnPackedBy_eq {k : Int} (h : turnPackedBy k p = q) :
    Rotates s p (presentTurns k) q := by
  have same : (presentTurns k).toInt % 4 = k % 4 := by
    rw [← toNat_quarterTurns, toNat_quarterTurns_presentTurns]
  exact rotates_of_turnPackedBy_eq s ((turnPackedBy_congr same p).trans h)

end Rotates

/-- Settles O28: the counts on each side are equal mod 4, and four quarter turns are the identity. -/
theorem rotationGroupLaws : Obligations.RotationGroupLaws := by
  intro s p
  have turns {p : Packed} (n : Turns) : Rotates s p n (turnPackedBy n.toInt p) := rotates_of_turnPackedBy_eq s rfl
  refine ⟨fun n => ⟨_, turns n, ?_⟩, turns 0, ⟨_, _, turns 1, turns 1, ?_⟩,
    ⟨_, _, _, turns 1, turns 1, turns 1, ?_⟩, fun a b => ⟨_, _, turns a, turns b, ?_⟩⟩
  · exact rotates_presentTurns_of_turnPackedBy_eq s (turnPackedBy_emod _ p)
  · exact rotates_of_turnPackedBy_eq s (turnPackedBy_turnPackedBy 1 1 p).symm
  · exact rotates_of_turnPackedBy_eq s (turnPacked_isPeriodicPt p)
  · refine rotates_presentTurns_of_turnPackedBy_eq s ?_
    rw [turnPackedBy_emod, turnPackedBy_turnPackedBy]

theorem bytesOf_eq_map_finRange (p : Packed) : bytesOf p = (List.finRange 16).map fun i : Fin 16 => byte p i := by
  rw [bytesOf, ← List.map_coe_finRange_eq_range, List.map_map]
  rfl

theorem map_turnSource_perm : ((List.finRange 16).map turnSource).Perm (List.finRange 16) := by decide

theorem bytesOf_turnPacked_perm (p : Packed) : (bytesOf (turnPacked p)).Perm (bytesOf p) := by
  have gathered : bytesOf (turnPacked p) = ((List.finRange 16).map turnSource).map fun i : Fin 16 => byte p i := by
    rw [bytesOf_eq_map_finRange, List.map_map]
    exact List.map_congr_left fun i _ => byte_turnPacked p i
  rw [gathered, bytesOf_eq_map_finRange]
  exact map_turnSource_perm.map _

theorem bytesOf_turnPackedBy_perm (k : Int) (p : Packed) : (bytesOf (turnPackedBy k p)).Perm (bytesOf p) :=
  Function.Iterate.rec (fun q => (bytesOf q).Perm (bytesOf p)) (List.Perm.refl _)
    (fun q h => (bytesOf_turnPacked_perm q).trans h) _

/-- Settles O29: the two counts add up to a full turn, and each turn permutes the bytes. -/
theorem rotateIsABijectionThatKeepsTheBytes : Obligations.RotateIsABijectionThatKeepsTheBytes := by
  intro s n p
  have undone : turnPackedBy (4 - n.toInt % 4) (turnPackedBy n.toInt p) = p := turnPackedBy_cancel (by omega) p
  have restored : turnPackedBy n.toInt (turnPackedBy (4 - n.toInt % 4) p) = p := turnPackedBy_cancel (by omega) p
  exact ⟨⟨_, rotates_of_turnPackedBy_eq s rfl, rotates_presentTurns_of_turnPackedBy_eq s undone,
      bytesOf_turnPackedBy_perm _ p⟩,
    ⟨_, rotates_of_turnPackedBy_eq s restored, rotates_presentTurns_of_turnPackedBy_eq s rfl⟩⟩

end Sys2Proof.Machine
end

section
/-! PACK carries a quarter turn of the grid to a quarter turn of the position (spec/42_rotation.md R140 and R148). -/

namespace Sys2Proof.Machine

open Sys2Proof.Certificates

theorem turnSource_val (i : Fin 16) : (turnSource i).val = 4 * (3 - i.val % 4) + i.val / 4 := rotTable_val 1 i

theorem gridAt_turnGrid (g : Grid) (i : Fin 16) : gridAt (turnGrid g) i = gridAt g (turnSource i) := by
  rw [gridAt_eq _ i.isLt, turnSource_val, gridAt, turnGrid, Vector.getElem_ofFn]

/-- The exponents of a turned grid are the exponents of the grid, turned. -/
theorem exponentsOf_turnGrid (vw : Nat) :
    Function.Semiconj (fun g => exponentsOf (busOfGrid vw g)) turnGrid turnPacked := by
  refine fun g => packed_ext fun i hi => ?_
  have source (j : Fin 16) : byte (exponentsOf (busOfGrid vw g)) j = exponentOf (BitVec.ofNat vw (gridAt g j)) := by
    rw [byte_exponentsOf _ j.isLt, cell_busOfGrid g j.isLt]
  rw [byte_turnPacked _ ⟨i, hi⟩, source, byte_exponentsOf _ hi, cell_busOfGrid _ hi, gridAt_turnGrid g ⟨i, hi⟩]

theorem turnPackedBy_exponentsOf (vw : Nat) (k : Int) (g : Grid) :
    turnPackedBy k (exponentsOf (busOfGrid vw g)) = exponentsOf (busOfGrid vw (turnGridBy (k % 4).toNat g)) :=
  ((exponentsOf_turnGrid vw).iterate_right _ g).symm

theorem gridValid_turnGrid {cfg : Config} {g : Grid} (valid : GridValid cfg g) : GridValid cfg (turnGrid g) := by
  intro i
  have moved : (turnGrid g)[i] = g[turnSource i] :=
    (gridAt_eq _ i.isLt).symm.trans ((gridAt_turnGrid g i).trans (gridAt_eq g (turnSource i).isLt))
  rw [moved]
  exact valid (turnSource i)

theorem gridValid_turnGridBy {cfg : Config} {g : Grid} (valid : GridValid cfg g) (q : Nat) :
    GridValid cfg (turnGridBy q g) := Function.Iterate.rec (GridValid cfg) valid (fun _ => gridValid_turnGrid) q

/-- A valid grid of a legal build stands on the bus whole. -/
theorem gridOfBus_busOfGrid_of_valid {cfg : Config} (legal : cfg.Legal) {g : Grid} (valid : GridValid cfg g) :
    gridOfBus (busOfGrid cfg.valueWidth g) = g :=
  gridOfBus_busOfGrid (gridFits_iff.mp (gridFits_of_gridValid legal valid))

theorem tilesValid_busOfGrid {cfg : Config} (legal : cfg.Legal) {g : Grid} (valid : GridValid cfg g) :
    TilesValid cfg (busOfGrid cfg.valueWidth g) := by
  rwa [← gridValid_gridOfBus, gridOfBus_busOfGrid_of_valid legal valid]

/-- Settles O30: ROTATE of the packed grid is the packed turned grid, which is valid too, so UNPACK gives it back. -/
theorem rotationCommutesWithTheCodec : Obligations.RotationCommutesWithTheCodec := by
  intro s g n legal valid
  have turned_valid := gridValid_turnGridBy valid (n.toInt % 4).toNat
  have tiles := tilesValid_busOfGrid legal turned_valid
  have packs := exec_pack_valid (tilesValid_busOfGrid legal valid)
  rw [gridOfBus_busOfGrid_of_valid legal valid] at packs
  refine ⟨_, _, _, packs, rfl, rotates_of_turnPackedBy_eq _ (turnPackedBy_exponentsOf _ _ g), rfl,
    exec_unpack_valid (exponentsValid_exponentsOf legal tiles), rfl, fun i => ?_⟩
  calc (cellAt (valuesOf s.cfg.valueWidth (exponentsOf (busOfGrid s.cfg.valueWidth _))) i).toNat
      = (cellAt (busOfGrid s.cfg.valueWidth (turnGridBy (n.toInt % 4).toNat g)) i).toNat := by
        rw [valuesOf_exponentsOf legal tiles]
    _ = (turnGridBy (n.toInt % 4).toNat g)[i] :=
        (gridBusHoldsCellIAtItsBits s.cfg _ (gridFits_of_gridValid legal turned_valid)).1 i

end Sys2Proof.Machine
end

section
/-! The invariant of the response registers through a step: what each operation answers is a row of the table of
spec/60_exceptions.md R162, and the other edges answer nothing new. -/

namespace Sys2Proof.Machine

open Sys2Proof.Certificates

/-- In every build, legal or not, the exponent of a valid tile is at most MAX_EXPONENT: a byte that cuts k short holds
less than k. -/
theorem toNat_exponentOf_le_maxExp {cfg : Config} {vw : Nat} {x : TileValue vw} (valid : ValidTile cfg x.toNat) :
    (exponentOf x).toNat ≤ cfg.maxExp := by
  rcases valid with zero | ⟨k, -, hk, power⟩
  · rw [exponentOf_of_zero zero]
    exact Nat.zero_le _
  · rw [exponentOf_of_two_pow power, BitVec.toNat_ofNat]
    exact (Nat.mod_le k _).trans hk

/-- PACK answers the exponents of a valid grid or InvalidTile. -/
theorem packOut_cases (cfg : Config) (b : GridBus cfg.valueWidth) :
    (TilesValid cfg b ∧ packOut cfg b = { Out.zero cfg.valueWidth with packed := exponentsOf b }) ∨
      ∃ c, packOut cfg b = raise .invalidTile c := by
  cases failing : firstFailing fun i => validValue cfg (cell b i) with
  | none =>
    have valid : TilesValid cfg b := tilesValid_of_packOut_ok (by simp only [packOut, failing]; rfl)
    exact .inl ⟨valid, packOut_valid valid⟩
  | some k => exact .inr ⟨BitVec.ofNat 4 k, by simp only [packOut, failing]⟩

/-- UNPACK answers a grid or InvalidExponent. -/
theorem unpackOut_cases (cfg : Config) (p : Packed) :
    (∃ g, unpackOut cfg p = { Out.zero cfg.valueWidth with grid := g }) ∨
      ∃ c, unpackOut cfg p = raise .invalidExponent c := by
  cases failing : firstFailing fun i => validExp cfg (byte p i) with
  | none => exact .inl ⟨valuesOf cfg.valueWidth p, by simp only [unpackOut, failing, valuesOf]⟩
  | some k => exact .inr ⟨BitVec.ofNat 4 k, by simp only [unpackOut, failing]⟩

section Rows
variable {cfg : Config} {r : Rsp cfg.valueWidth}

/-- A success of one of the five operations, with data in the fields it names only. -/
theorem RspInv.of_ok (ok : r.status = 0) (cell : r.cell = 0) (op : r.op.toNat < 5)
    (exp : r.exp ≠ 0 → r.op = opEncode) (value : r.value ≠ 0 → r.op = opDecode)
    (grid : r.grid ≠ 0 → r.op = opUnpack) (packed : r.packed ≠ 0 → r.op = opPack ∨ r.op = opRotate)
    (exp_valid : r.exp.toNat ≤ cfg.maxExp)
    (packed_valid : r.op = opPack → ∀ i, i < 16 → (byte r.packed i).toNat ≤ cfg.maxExp) : RspInv cfg r where
  produced := .inl ok
  tile_ops := by simp [ok]
  exponent_ops := by simp [ok]
  illegal_ops := by simp [ok, op]
  cell_ops := absurd cell
  exp_ops h := ⟨ok, exp h⟩
  value_ops h := ⟨ok, value h⟩
  grid_ops h := ⟨ok, grid h⟩
  packed_ops h := ⟨ok, packed h⟩
  exp_valid := exp_valid
  packed_valid := packed_valid

/-- A response with zero data, as every error has (spec/60_exceptions.md R164), whose status and cell its operation may
report. -/
theorem RspInv.of_zero_data (exp : r.exp = 0) (value : r.value = 0) (grid : r.grid = 0) (packed : r.packed = 0)
    (produced : r.status = 0 ∨ r.status = 1 ∨ r.status = 2 ∨ r.status = 4)
    (tile_ops : r.status = 1 → r.op = opEncode ∨ r.op = opPack)
    (exponent_ops : r.status = 2 → r.op = opDecode ∨ r.op = opUnpack)
    (illegal_ops : r.status = 4 ↔ 5 ≤ r.op.toNat)
    (cell_ops : r.cell ≠ 0 → r.status ≠ 0 ∧ (r.op = opPack ∨ r.op = opUnpack)) : RspInv cfg r where
  produced := produced
  tile_ops := tile_ops
  exponent_ops := exponent_ops
  illegal_ops := illegal_ops
  cell_ops := cell_ops
  exp_ops := absurd exp
  value_ops := absurd value
  grid_ops := absurd grid
  packed_ops := absurd packed
  exp_valid := by rw [exp]; exact Nat.zero_le _
  packed_valid _ i _ := by rw [packed, byte_zero]; exact Nat.zero_le _

/-- The invariant does not ask whether the response is on the ports. -/
theorem RspInv.with_valid (h : RspInv cfg r) (valid : Bool) : RspInv cfg { r with valid := valid } where
  __ := h

end Rows

section Accept
variable (s : State) {op : OpCode} {c : CellIndex}

theorem rspInv_raise_invalidTile (h : op = opEncode ∧ c = 0 ∨ op = opPack) :
    RspInv s.cfg (s.accept op (raise .invalidTile c)).rsp := by
  have op_cases : op = opEncode ∨ op = opPack := h.imp_left And.left
  have named : op.toNat < 5 := by rcases op_cases with rfl | rfl <;> decide
  exact .of_zero_data rfl rfl rfl rfl (.inr (.inl rfl)) (fun _ => op_cases) nofun
    (iff_of_false nofun (Nat.not_le.mpr named))
    fun cell => ⟨nofun, .inl (h.resolve_left fun ⟨_, zero⟩ => cell zero)⟩

theorem rspInv_raise_invalidExponent (h : op = opDecode ∧ c = 0 ∨ op = opUnpack) :
    RspInv s.cfg (s.accept op (raise .invalidExponent c)).rsp := by
  have op_cases : op = opDecode ∨ op = opUnpack := h.imp_left And.left
  have named : op.toNat < 5 := by rcases op_cases with rfl | rfl <;> decide
  exact .of_zero_data rfl rfl rfl rfl (.inr (.inr (.inl rfl))) nofun (fun _ => op_cases)
    (iff_of_false nofun (Nat.not_le.mpr named))
    fun cell => ⟨nofun, .inr (h.resolve_left fun ⟨_, zero⟩ => cell zero)⟩

theorem rspInv_raise_illegalOp (h : 5 ≤ op.toNat) : RspInv s.cfg (s.accept op (raise .illegalOp 0)).rsp :=
  .of_zero_data rfl rfl rfl rfl (.inr (.inr (.inr rfl))) nofun nofun (iff_of_true rfl h) (absurd rfl)

theorem rspInv_encodeOut (x : TileValue s.cfg.valueWidth) :
    RspInv s.cfg (s.accept opEncode (encodeOut s.cfg x)).rsp := by
  by_cases valid : ValidTile s.cfg x.toNat
  · rw [encodeOut_valid valid]
    exact .of_ok rfl rfl (show opEncode.toNat < 5 by decide)
      (fun _ => rfl) (absurd rfl) (absurd rfl) (absurd rfl)
      (toNat_exponentOf_le_maxExp valid) nofun
  · rw [encodeOut_invalid valid]
    exact rspInv_raise_invalidTile s (.inl ⟨rfl, rfl⟩)

theorem rspInv_decodeOut (e : Exponent) : RspInv s.cfg (s.accept opDecode (decodeOut s.cfg e)).rsp := by
  rcases le_or_gt e.toNat s.cfg.maxExp with valid | invalid
  · rw [decodeOut_valid valid]
    exact .of_ok rfl rfl (show opDecode.toNat < 5 by decide)
      (absurd rfl) (fun _ => rfl) (absurd rfl) (absurd rfl) (Nat.zero_le _) nofun
  · rw [decodeOut_invalid invalid]
    exact rspInv_raise_invalidExponent s (.inl ⟨rfl, rfl⟩)

theorem rspInv_packOut (b : GridBus s.cfg.valueWidth) : RspInv s.cfg (s.accept opPack (packOut s.cfg b)).rsp := by
  rcases packOut_cases s.cfg b with ⟨valid, packs⟩ | ⟨c, fails⟩
  · have exponents_valid (i : Nat) (hi : i < 16) : (byte (exponentsOf b) i).toNat ≤ s.cfg.maxExp := by
      rw [byte_exponentsOf b hi]
      exact toNat_exponentOf_le_maxExp (valid ⟨i, hi⟩)
    rw [packs]
    exact .of_ok rfl rfl (show opPack.toNat < 5 by decide)
      (absurd rfl) (absurd rfl) (absurd rfl) (fun _ => .inl rfl) (Nat.zero_le _)
      fun _ => exponents_valid
  · rw [fails]
    exact rspInv_raise_invalidTile s (.inr rfl)

theorem rspInv_unpackOut (p : Packed) : RspInv s.cfg (s.accept opUnpack (unpackOut s.cfg p)).rsp := by
  rcases unpackOut_cases s.cfg p with ⟨g, unpacks⟩ | ⟨c, fails⟩
  · rw [unpacks]
    exact .of_ok rfl rfl (show opUnpack.toNat < 5 by decide)
      (absurd rfl) (absurd rfl) (fun _ => rfl) (absurd rfl) (Nat.zero_le _) nofun
  · rw [fails]
    exact rspInv_raise_invalidExponent s (.inr rfl)

theorem rspInv_rotateOut (p : Packed) (turns : Turns) :
    RspInv s.cfg (s.accept opRotate (rotateOut s.cfg.valueWidth p turns)).rsp :=
  .of_ok rfl rfl (show opRotate.toNat < 5 by decide)
    (absurd rfl) (absurd rfl) (absurd rfl) (fun _ => .inr rfl) (Nat.zero_le _) nofun

end Accept

/-- Whatever an instruction answers is a response that the table of R162 allows. -/
theorem ResultOf.rspInv {s : State} {i : Instr} {out : Out s.cfg.valueWidth} (h : ResultOf s i out) :
    RspInv s.cfg (s.accept i.op out).rsp := by
  cases h with
  | @encode _ x _ => exact rspInv_encodeOut s x
  | decode e => exact rspInv_decodeOut s e
  | @pack _ b _ => exact rspInv_packOut s b
  | @unpack _ p _ => exact rspInv_unpackOut s p
  | @rotate _ p turns _ => exact rspInv_rotateOut s p turns
  | reserved101 => exact rspInv_raise_illegalOp s (by decide)
  | reserved11x low => exact rspInv_raise_illegalOp s (by cases low <;> decide)

/-- After an instruction the response registers meet the invariant, whatever they held before. -/
theorem rspInv_of_exec {i : Instr} {s t : State} (h : exec i s = .next t) : RspInv t.cfg t.rsp := by
  obtain ⟨out, result, rfl⟩ := exec_next h
  exact result.rspInv

/-- Settles O38: reset writes the reset values, a request its response, an idle edge `rsp_valid` only, and before the
first reset the invariant asks nothing. -/
theorem stepKeepsTheResponseInvariant : Obligations.StepKeepsTheResponseInvariant := by
  intro s t inv h
  rcases step_next h with ⟨-, rfl⟩ | ⟨-, -, -, u, hu, rfl⟩ | ⟨-, hw, -, rfl⟩ | ⟨-, hw, rfl⟩
  · exact fun _ => rspInv_zero s.cfg
  · have answered : RspInv u.cfg u.rsp := rspInv_of_exec hu
    exact fun _ => answered
  · exact fun _ => (inv hw).with_valid false
  · exact fun reset => absurd (hw.symm.trans reset) Bool.false_ne_true

end Sys2Proof.Machine
end

section
/-! What the invariant says of a single response: its data and its status (spec/60_exceptions.md R162 to R164). -/

namespace Sys2Proof.Machine

section Response
variable {cfg : Config} {r : Rsp cfg.valueWidth}

theorem RspInv.data_zero_of_error (h : RspInv cfg r) (error : r.status ≠ 0) :
    r.exp = 0 ∧ r.value = 0 ∧ r.grid = 0 ∧ r.packed = 0 :=
  ⟨by_contra fun data => error (h.exp_ops data).1, by_contra fun data => error (h.value_ops data).1,
    by_contra fun data => error (h.grid_ops data).1, by_contra fun data => error (h.packed_ops data).1⟩

theorem RspInv.cell_zero_of_ok (h : RspInv cfg r) (ok : r.status = 0) : r.cell = 0 :=
  by_contra fun cell => (h.cell_ops cell).1 ok

theorem RspInv.cell_zero_of_op (h : RspInv cfg r) (op : r.op ≠ opPack ∧ r.op ≠ opUnpack) : r.cell = 0 :=
  by_contra fun cell => (h.cell_ops cell).2.elim op.1 op.2

theorem RspInv.status_ok_or_invalidTile (h : RspInv cfg r)
    (op : r.op ≠ opDecode ∧ r.op ≠ opUnpack ∧ r.op.toNat < 5) : r.status = 0 ∨ r.status = 1 := by
  obtain ⟨decode, unpack, named⟩ := op
  rcases h.produced with ok | invalid_tile | invalid_exponent | illegal
  · exact .inl ok
  · exact .inr invalid_tile
  · exact ((h.exponent_ops invalid_exponent).elim decode unpack).elim
  · exact absurd (h.illegal_ops.mp illegal) (Nat.not_le.mpr named)

theorem RspInv.status_ok_or_invalidExponent (h : RspInv cfg r)
    (op : r.op ≠ opEncode ∧ r.op ≠ opPack ∧ r.op.toNat < 5) : r.status = 0 ∨ r.status = 2 := by
  obtain ⟨encode, pack, named⟩ := op
  rcases h.produced with ok | invalid_tile | invalid_exponent | illegal
  · exact .inl ok
  · exact ((h.tile_ops invalid_tile).elim encode pack).elim
  · exact .inr invalid_exponent
  · exact absurd (h.illegal_ops.mp illegal) (Nat.not_le.mpr named)

/-- ROTATE is neither an operation that reports INVALID_TILE nor one that reports INVALID_EXPONENT. -/
theorem RspInv.status_ok_of_opRotate (h : RspInv cfg r) (op : r.op = opRotate) : r.status = 0 := by
  rcases h.status_ok_or_invalidTile (by rw [op]; decide) with ok | invalid_tile
  · exact ok
  · exact absurd (h.tile_ops invalid_tile) (by rw [op]; decide)

end Response

/-- Settles O36: each clause is the contrapositive of the invariant's clause for that field. -/
theorem noPartialResultAndZeroFill : Obligations.NoPartialResultAndZeroFill := by
  intro i s t h
  have inv := rspInv_of_exec h
  refine ⟨inv.data_zero_of_error, fun _ => ⟨fun op => ?_, fun op => ?_, fun op => ?_, fun pack rotate => ?_⟩⟩
  · exact by_contra fun data => op (inv.exp_ops data).2
  · exact by_contra fun data => op (inv.value_ops data).2
  · exact by_contra fun data => op (inv.grid_ops data).2
  · exact by_contra fun data => (inv.packed_ops data).2.elim pack rotate

/-- Settles O37: an operation reports the produced codes that the invariant does not keep for others. -/
theorem statusesOfEachOperation : Obligations.StatusesOfEachOperation := by
  intro i s t h
  have inv := rspInv_of_exec h
  refine ⟨fun op => ⟨?_, ?_⟩, fun op => ⟨?_, ?_⟩, fun op => ?_, fun op => ?_, inv.status_ok_of_opRotate,
    fun reserved => ⟨inv.illegal_ops.mpr reserved, ?_⟩, inv.cell_zero_of_ok⟩
  · exact inv.status_ok_or_invalidTile (by rw [op]; decide)
  · exact inv.cell_zero_of_op (by rw [op]; decide)
  · exact inv.status_ok_or_invalidExponent (by rw [op]; decide)
  · exact inv.cell_zero_of_op (by rw [op]; decide)
  · exact inv.status_ok_or_invalidTile (by rw [op]; decide)
  · exact inv.status_ok_or_invalidExponent (by rw [op]; decide)
  · refine inv.cell_zero_of_op ⟨fun pack => ?_, fun unpack => ?_⟩
    · exact absurd reserved (by rw [pack]; decide)
    · exact absurd reserved (by rw [unpack]; decide)

end Sys2Proof.Machine
end

section
/-! The requester's duties: an integer that fits is presented whole, and one that does not is reported
(spec/60_exceptions.md R167 and R168). -/

namespace Sys2Proof.Machine

open Sys2Proof.Certificates

theorem toNat_ofNat_of_lt {w v : Nat} (fits : v < 2 ^ w) : (BitVec.ofNat w v).toNat = v := by
  rw [BitVec.toNat_ofNat, Nat.mod_eq_of_lt fits]

theorem presentValue_fits {cfg : Config} {v : Nat} (fits : v < 2 ^ cfg.valueWidth) :
    presentValue cfg v = .ok (BitVec.ofNat cfg.valueWidth v) :=
  if_pos (decide_eq_true fits)

theorem presentValue_wide {cfg : Config} {v : Nat} (wide : 2 ^ cfg.valueWidth ≤ v) :
    presentValue cfg v = .error .invalidTile :=
  if_neg fun fits => absurd (of_decide_eq_true fits) (Nat.not_lt.mpr wide)

theorem presentGrid_fits {cfg : Config} {g : Grid} (fits : GridFits cfg g) :
    presentGrid cfg g = .ok (busOfGrid cfg.valueWidth g) :=
  if_pos (all_fitsPort_iff_gridFits.mpr fits)

theorem presentGrid_wide {cfg : Config} {g : Grid} (wide : ¬ GridFits cfg g) :
    presentGrid cfg g = .error .invalidTile :=
  if_neg (mt all_fitsPort_iff_gridFits.mp wide)

theorem presentExp_fits {e : Nat} (fits : e < 256) : presentExp e = .ok (BitVec.ofNat 8 e) := if_pos fits

theorem presentExp_wide {e : Nat} (wide : 256 ≤ e) : presentExp e = .error .invalidExponent :=
  if_neg (Nat.not_lt.mpr wide)

/-- The check that the sixteen exponents go through. -/
theorem all_lt_256_iff {es : Grid} :
    (es.toList.all fun e => decide (e < 256)) = true ↔ ∀ i : Fin 16, es[i] < 256 := by
  simp [Fin.forall_iff]
theorem presentBytes_fits {es : Grid} (fits : ∀ i : Fin 16, es[i] < 256) :
    presentBytes es = .ok (packedOfBytes fun i => BitVec.ofNat 8 (gridAt es i)) :=
  if_pos (all_lt_256_iff.mpr fits)

theorem presentBytes_wide {es : Grid} (wide : ∃ i : Fin 16, 256 ≤ es[i]) :
    presentBytes es = .error .invalidExponent := by
  obtain ⟨i, hi⟩ := wide
  exact if_neg fun fits => absurd (all_lt_256_iff.mp fits i) (Nat.not_lt.mpr hi)

/-- Byte i of sixteen exponents on the port is exponent i. -/
theorem toNat_byte_packedOfBytes_gridAt {es : Grid} {i : Fin 16} (fits : es[i] < 256) :
    (byte (packedOfBytes fun i => BitVec.ofNat 8 (gridAt es i)) i).toNat = es[i] := by
  rw [byte_packedOfBytes _ i.isLt, gridAt_eq es i.isLt]
  exact toNat_ofNat_of_lt fits

/-- Settles O51: what fits is presented by the word that holds it, which has its value. -/
theorem requesterNeverTruncates : Obligations.RequesterNeverTruncates := by
  refine ⟨fun cfg v => ⟨fun fits => ?_, presentValue_wide⟩, fun cfg g => ⟨fun fits => ?_, presentGrid_wide⟩,
    fun e => ⟨fun fits => ?_, presentExp_wide⟩, fun es => ⟨fun fits => ?_, presentBytes_wide⟩⟩
  · exact ⟨_, presentValue_fits fits, toNat_ofNat_of_lt fits⟩
  · exact ⟨_, presentGrid_fits fits, (gridBusHoldsCellIAtItsBits cfg g fits).1⟩
  · exact ⟨_, presentExp_fits fits, toNat_ofNat_of_lt fits⟩
  · exact ⟨_, presentBytes_fits fits, fun i => toNat_byte_packedOfBytes_gridAt (fits i)⟩

end Sys2Proof.Machine
end

section
/-! ROTATE held on the ports with `rsp_packed` fed back (spec/70_reset_and_hazards.md R186): each edge is one ROTATE of
the response before it, and leaves the request held. -/

namespace Sys2Proof.Machine

open Sys2Proof.Certificates

/-- A response is on the ports, and the requester holds ROTATE by `n` of that response: it presents it now and goes on
presenting it, since its script is empty (log entry 2). -/
structure RotateHeld (n : Turns) (s : State) : Prop where
  wasReset : s.wasReset = true
  response : s.rsp.valid = true
  script : s.script = []
  rst : s.ports.rst = false
  valid : s.ports.valid = true
  presented : s.presented = .rotate .rsp n

theorem rotateOut_packed (vw : Nat) (p : Packed) (n : Turns) : (rotateOut vw p n).packed = turnPackedBy n.toInt p := by
  rw [turnPackedBy, ← toNat_quarterTurns, Int.toNat_natCast, ← permuteBytes_rotTable, rotateOut]

/-- With an empty script the requester drives what it drove. -/
theorem driveNext_of_script_nil {s : State} (h : s.script = []) : s.driveNext = s := by
  obtain ⟨cfg, wasReset, rsp, ports, script, draws⟩ := s
  obtain rfl : script = [] := h
  rfl

theorem run_succ_of_step {s u : State} (h : step s = .next u) (m : Nat) :
    Host.Core.run core (m + 1) s = Host.Core.run core m u := by
  have first : core.step s = .next u := h
  simp only [Host.Core.run, first]

namespace RotateHeld
variable {n : Turns} {s : State}

/-- The held request stays held and finds a response again, and what it fed back is turned once more. -/
theorem step_next (held : RotateHeld n s) :
    ∃ t, step s = .next t ∧ RotateHeld n t ∧ t.rsp.packed = turnPackedBy (n.toInt % 4) s.rsp.packed := by
  have fed_back : packedOperand s .rsp = .ok s.rsp.packed := readData_with_response _ held.wasReset held.response
  have edge := step_of_resultOf held.wasReset held.rst held.valid held.presented (.rotate n fed_back)
  rw [driveNext_of_script_nil (s := s.accept _ _) held.script] at edge
  refine ⟨_, edge, ⟨held.wasReset, rfl, held.script, held.rst, held.valid, held.presented⟩, ?_⟩
  rw [accept_rsp_packed, rotateOut_packed, turnPackedBy_emod]

/-- By induction on the number of edges, each of which adds its quarter turns. -/
theorem run_next (held : RotateHeld n s) (m : Nat) :
    ∃ t, Host.Core.run core m s = .next t ∧ t.rsp.packed = turnPackedBy (m * (n.toInt % 4)) s.rsp.packed := by
  induction m generalizing s with
  | zero => exact ⟨s, rfl, by rw [Nat.cast_zero, zero_mul, turnPackedBy_zero]⟩
  | succ m ih =>
    obtain ⟨u, edge, held_after, turned_once⟩ := held.step_next
    obtain ⟨t, edges, turned⟩ := ih held_after
    refine ⟨t, (run_succ_of_step edge m).trans edges, ?_⟩
    rw [turned, turned_once, turnPackedBy_turnPackedBy, Nat.cast_succ, add_one_mul, add_comm]

end RotateHeld

/-- Settles O33: the statement's premises are `RotateHeld`, and ROTATE by the presented count is the turns of `m`
edges. -/
theorem heldRotateTurnsOncePerEdge : Obligations.HeldRotateTurnsOncePerEdge := by
  intro m s n hw hresponse hscript hrst hvalid hop hpacked hturns
  have presented : s.presented = .rotate .rsp n := by rw [State.presented, decode_of_opRotate hop, hpacked, hturns]
  have held : RotateHeld n s := ⟨hw, hresponse, hscript, hrst, hvalid, presented⟩
  obtain ⟨t, edges, turned⟩ := held.run_next m
  exact ⟨t, edges, rotates_presentTurns_of_turnPackedBy_eq s ((turnPackedBy_emod _ _).trans turned.symm)⟩

end Sys2Proof.Machine
end

section
/-! Reset and the time before it (spec/70_reset_and_hazards.md R180 to R183). -/

namespace Sys2Proof.Machine

/-- Settles O1: the reset branch of an edge writes `Rsp.zero`. -/
theorem resetEdgeClearsEveryResponseRegister : Obligations.ResetEdgeClearsEveryResponseRegister :=
  fun _ hr => ⟨_, step_of_reset hr, rfl, rfl, rfl, rfl, rfl, rfl, rfl, rfl, rfl, rfl⟩

/-- Before the first reset an edge without `rst` is the power-up edge, whatever is presented. -/
theorem step_of_unreset {s : State} (hw : s.wasReset = false) (hr : s.ports.rst = false) :
    step s = .next s.powerUpEdge.driveNext := by
  simp [step, clockEdge, hr, hw, thenDrive]

/-- Settles O11, by the power-up branch of an edge. -/
theorem edgeBeforeResetLeavesTheBlockUnreset : Obligations.EdgeBeforeResetLeavesTheBlockUnreset :=
  fun _ hw hr => ⟨_, step_of_unreset hw hr, hw, rfl⟩

/-- Settles O12: every read of a data register is `readData` of it. -/
theorem readBeforeResetFaults : Obligations.ReadBeforeResetFaults := by
  intro s hw
  have valid_fails : s.readValid = .error .readBeforeReset := by simp [State.readValid, hw]
  have fails {α : Type} (register : α) := readData_before_reset register hw
  exact ⟨valid_fails, fails _, readStatus_of_readData_error (fails _), fails _, fails _, fails _, fails _, fails _⟩

end Sys2Proof.Machine
end
